-- ==== Sys2Proof/Word.lean ====
section
/-! DEFINITION. The word of the command and response ports (20_memory.md R127: 32 bits). -/

namespace Sys2Proof

/-- One word of the command port or of the response port (R127, R150). -/
abbrev Word := BitVec 32

end Sys2Proof
end

