-- ==== Sys2Proof/Syntax.lean ====
section
/-! DEFINITION. The commands of `BKOSC-CMD` (30_encoding.md R152, R154, R155): one constructor per row of
spec/opcode_table.json. Operands are the integers of R156, already assembled from their words; their ranges are
checked in WellFormed.lean. -/

namespace Sys2Proof

/-- A command of the oscillator. `value`, `nch` and `policy` are signed 32-bit integers, `handle` an unsigned 32-bit
one, `endTime` and `t` unsigned 64-bit ones (R156); `n` is the channel of a VOLUME_n key (R154). -/
inductive Instr where
  -- SET_ATTR (R400 to R410)
  | setAttrWaveform (value : Int)
  | setAttrDutyCycle (value : Int)
  | setAttrPeriod (value : Int)
  | setAttrPhase (value : Int)
  | setAttrVolume (value : Int)
  | setAttrVolumeN (n : Nat) (value : Int)
  | setAttrSampleOffset (value : Int)
  | setAttrSampleEnd (value : Int)
  | setAttrSamplePeriod (value : Int)
  | setAttrSampleRepeat (value : Int)
  | setAttrSampleCallback (value : Int)
  -- GET_ATTR (R450 to R464)
  | getAttrWaveform
  | getAttrDutyCycle
  | getAttrPeriod
  | getAttrPhase
  | getAttrPhaseCount
  | getAttrVolume
  | getAttrStatus
  | getAttrNumChannels
  | getAttrVolumeN (n : Nat)
  | getAttrSampleOffset
  | getAttrSampleEnd
  | getAttrSamplePeriod
  | getAttrSampleRepeat
  | getAttrSampleCallback
  | getAttrSamplePosition
  -- SET_PTR, GET_PTR (R500 to R503)
  | setPtrWaveform (handle : Nat)
  | setPtrSample (handle : Nat)
  | getPtrWaveform
  | getPtrSample
  -- RUN, END (R250, R262)
  | run (endTime : Nat)
  | endChunk (t : Nat)
  -- lifecycle (R350, R352, R354)
  | reset
  | attach (nch : Int)
  | detach
  -- DATA_NOTIFY (R505, R506)
  | dataNotifyReplaced (handle : Nat)
  | dataNotifyDisposed (handle : Nat)
  -- BOUNDARY_REPLY (R322)
  | boundaryReply (policy : Int)
  -- reserved operations (R158 item 1); the fields are the header's, R151
  | reservedOp0 (key rsv : Nat)
  | reservedOpcToOpf (op key rsv : Nat)
  deriving DecidableEq, Repr

end Sys2Proof
end

