-- ==== Sys2Proof/WellFormed.lean ====
section
/-! DEFINITION. Which terms of `Instr` stand for a command that words can carry (30_encoding.md R151, R154, R156): every
operand in the range of the field or word that holds it. -/

namespace Sys2Proof

/-- An int32 operand, `sext_32` of a word (R156). -/
def fitsInt32 (v : Int) : Bool := decide (-2 ^ 31 ≤ v ∧ v < 2 ^ 31)
/-- A uint32 operand, `zext_32` of a word (R156). -/
def fitsUInt32 (v : Nat) : Bool := decide (v < 2 ^ 32)
/-- A uint64 operand, `zext_64` of two words (R156). -/
def fitsUInt64 (v : Nat) : Bool := decide (v < 2 ^ 64)
/-- A channel number of a VOLUME_n key, `KEY[2:0]` (R154). -/
def fitsChannel (n : Nat) : Bool := decide (n < 8)
/-- A header's `KEY` field (R151). -/
def fitsKey (k : Nat) : Bool := decide (k < 2 ^ 8)
/-- A header's `RSV` field (R151). -/
def fitsRsv (r : Nat) : Bool := decide (r < 2 ^ 20)
/-- A reserved operation of the second reserved range (R152). -/
def fitsHighReservedOp (op : Nat) : Bool := decide (0xC ≤ op ∧ op ≤ 0xF)

/-- Every operand fits the word or field that carries it. -/
def Instr.wellFormed : Instr → Bool
  | .setAttrWaveform v => fitsInt32 v
  | .setAttrDutyCycle v => fitsInt32 v
  | .setAttrPeriod v => fitsInt32 v
  | .setAttrPhase v => fitsInt32 v
  | .setAttrVolume v => fitsInt32 v
  | .setAttrVolumeN n v => fitsChannel n && fitsInt32 v
  | .setAttrSampleOffset v => fitsInt32 v
  | .setAttrSampleEnd v => fitsInt32 v
  | .setAttrSamplePeriod v => fitsInt32 v
  | .setAttrSampleRepeat v => fitsInt32 v
  | .setAttrSampleCallback v => fitsInt32 v
  | .getAttrWaveform => true
  | .getAttrDutyCycle => true
  | .getAttrPeriod => true
  | .getAttrPhase => true
  | .getAttrPhaseCount => true
  | .getAttrVolume => true
  | .getAttrStatus => true
  | .getAttrNumChannels => true
  | .getAttrVolumeN n => fitsChannel n
  | .getAttrSampleOffset => true
  | .getAttrSampleEnd => true
  | .getAttrSamplePeriod => true
  | .getAttrSampleRepeat => true
  | .getAttrSampleCallback => true
  | .getAttrSamplePosition => true
  | .setPtrWaveform h => fitsUInt32 h
  | .setPtrSample h => fitsUInt32 h
  | .getPtrWaveform => true
  | .getPtrSample => true
  | .run e => fitsUInt64 e
  | .endChunk t => fitsUInt64 t
  | .reset => true
  | .attach n => fitsInt32 n
  | .detach => true
  | .dataNotifyReplaced h => fitsUInt32 h
  | .dataNotifyDisposed h => fitsUInt32 h
  | .boundaryReply p => fitsInt32 p
  | .reservedOp0 k r => fitsKey k && fitsRsv r
  | .reservedOpcToOpf op k r => fitsHighReservedOp op && fitsKey k && fitsRsv r

end Sys2Proof
end

