-- ==== Sys2Proof/Decode.lean ====
section
/-! DEFINITION. The decoder of command words (30_encoding.md R150 to R158), total, rejecting by name; the encoder, written
from the same tables; and the fetch of one command from the command port. -/

namespace Sys2Proof

/-! ### Header fields (R151) -/

/-- `OP`, bits 31:28. -/
def headerOp (h : Word) : Nat := (h.extractLsb' 28 4).toNat
/-- `KEY`, bits 27:20. -/
def headerKey (h : Word) : Nat := (h.extractLsb' 20 8).toNat
/-- `RSV`, bits 19:0. -/
def headerRsv (h : Word) : Nat := (h.extractLsb' 0 20).toNat
/-- The header with the three fields given (R151). -/
def mkHeader (op key rsv : Nat) : Word := BitVec.ofNat 32 (op * 2 ^ 28 + key * 2 ^ 20 + rsv)

/-- R152, the column *words*: the length of a command, from `OP` alone (R153). -/
def wordsOfOp : Nat → Nat
  | 0x1 => 2
  | 0x3 => 2
  | 0x5 => 3
  | 0x6 => 3
  | 0x8 => 2
  | 0xA => 2
  | 0xB => 2
  | _ => 1

/-- R152, the column *resp*: GET_ATTR and GET_PTR answer two words, every other operation one. -/
def hasValueWord (op : Nat) : Bool := op == 0x2 || op == 0x4

/-- R152: the operations whose `KEY` must be 0. -/
def isKeyless (op : Nat) : Bool := op == 0x5 || op == 0x6 || op == 0x7 || op == 0x8 || op == 0x9 || op == 0xB

/-! ### Operand assembly (R156) -/

/-- `sext_32(w)`. -/
def operandInt (w : Word) : Int := w.toInt
/-- `zext_32(w)`. -/
def operandNat (w : Word) : Nat := w.toNat
/-- `zext_64(hi ++ lo)`; the low word is sent first. -/
def operandTime (lo hi : Word) : Nat := hi.toNat * 2 ^ 32 + lo.toNat

/-! ### Decoding -/

/-- Why a command's words stand for no instruction: the illegal encodings of R158, items 2 to 5, by name. `op` is the
header's operation; the words the operation gives are consumed all the same (R153). -/
inductive Illegal where
  /-- R158 item 2: `RSV` is not 0. -/
  | reservedBits (op : Nat)
  /-- R158 item 3: `KEY` is not 0 on RUN, END, RESET, ATTACH, DETACH or BOUNDARY_REPLY. -/
  | keyOnKeyless (op : Nat)
  /-- R158 item 4: the key, pointer key or notification kind is not listed. -/
  | unlistedKey (op : Nat)
  /-- R158 item 5: a read-only key on SET_ATTR. -/
  | readOnlyKey
  deriving DecidableEq, Repr

/-- What stands at the front of a stream of command words. -/
inductive Decoded where
  /-- A command, and the words after it. -/
  | command (i : Instr) (rest : List Word)
  /-- An illegal encoding (R158), and the words after those its operation consumes. -/
  | illegal (why : Illegal) (rest : List Word)
  /-- The words of one command have not all arrived. -/
  | incomplete
  deriving DecidableEq, Repr

/-- R154, the keys SET_ATTR takes. -/
def decodeSetAttr (key : Nat) (v : Int) : Except Illegal Instr :=
  match key with
  | 0x01 => .ok (.setAttrWaveform v)
  | 0x02 => .ok (.setAttrDutyCycle v)
  | 0x03 => .ok (.setAttrPeriod v)
  | 0x04 => .ok (.setAttrPhase v)
  | 0x05 => .error .readOnlyKey
  | 0x06 => .ok (.setAttrVolume v)
  | 0x07 => .error .readOnlyKey
  | 0x08 => .error .readOnlyKey
  | 0x20 => .ok (.setAttrSampleOffset v)
  | 0x21 => .ok (.setAttrSampleEnd v)
  | 0x22 => .ok (.setAttrSamplePeriod v)
  | 0x23 => .ok (.setAttrSampleRepeat v)
  | 0x24 => .ok (.setAttrSampleCallback v)
  | 0x25 => .error .readOnlyKey
  | k => if 0x10 ≤ k ∧ k ≤ 0x17 then .ok (.setAttrVolumeN (k - 0x10) v) else .error (.unlistedKey 0x1)

/-- R154, the keys GET_ATTR takes. -/
def decodeGetAttr (key : Nat) : Except Illegal Instr :=
  match key with
  | 0x01 => .ok .getAttrWaveform
  | 0x02 => .ok .getAttrDutyCycle
  | 0x03 => .ok .getAttrPeriod
  | 0x04 => .ok .getAttrPhase
  | 0x05 => .ok .getAttrPhaseCount
  | 0x06 => .ok .getAttrVolume
  | 0x07 => .ok .getAttrStatus
  | 0x08 => .ok .getAttrNumChannels
  | 0x20 => .ok .getAttrSampleOffset
  | 0x21 => .ok .getAttrSampleEnd
  | 0x22 => .ok .getAttrSamplePeriod
  | 0x23 => .ok .getAttrSampleRepeat
  | 0x24 => .ok .getAttrSampleCallback
  | 0x25 => .ok .getAttrSamplePosition
  | k => if 0x10 ≤ k ∧ k ≤ 0x17 then .ok (.getAttrVolumeN (k - 0x10)) else .error (.unlistedKey 0x2)

/-- R155, the pointer keys of SET_PTR. -/
def decodeSetPtr (key handle : Nat) : Except Illegal Instr :=
  match key with
  | 0x01 => .ok (.setPtrWaveform handle)
  | 0x02 => .ok (.setPtrSample handle)
  | _ => .error (.unlistedKey 0x3)

/-- R155, the pointer keys of GET_PTR. -/
def decodeGetPtr (key : Nat) : Except Illegal Instr :=
  match key with
  | 0x01 => .ok .getPtrWaveform
  | 0x02 => .ok .getPtrSample
  | _ => .error (.unlistedKey 0x4)

/-- R155, the notification kinds of DATA_NOTIFY. -/
def decodeNotify (key handle : Nat) : Except Illegal Instr :=
  match key with
  | 0x01 => .ok (.dataNotifyReplaced handle)
  | 0x02 => .ok (.dataNotifyDisposed handle)
  | _ => .error (.unlistedKey 0xA)

/-- R152: the operation map, on a header whose `RSV` is 0 and whose `KEY` is 0 where it must be. -/
def decodeOp (op key : Nat) (w1 w2 : Word) : Except Illegal Instr :=
  match op with
  | 0x1 => decodeSetAttr key (operandInt w1)
  | 0x2 => decodeGetAttr key
  | 0x3 => decodeSetPtr key (operandNat w1)
  | 0x4 => decodeGetPtr key
  | 0x5 => .ok (.run (operandTime w1 w2))
  | 0x6 => .ok (.endChunk (operandTime w1 w2))
  | 0x7 => .ok .reset
  | 0x8 => .ok (.attach (operandInt w1))
  | 0x9 => .ok .detach
  | 0xA => decodeNotify key (operandNat w1)
  | 0xB => .ok (.boundaryReply (operandInt w1))
  | 0x0 => .ok (.reservedOp0 key 0)
  | o => .ok (.reservedOpcToOpf o key 0)

/-- One command from its header and two operand words, of which it uses as many as its operation has (R156). The order
of the checks is that of 60_exceptions.md R610: reserved operation, `RSV`, `KEY` on a keyless command, then the key. -/
def decodeWords (h w1 w2 : Word) : Except Illegal Instr :=
  let op := headerOp h
  let key := headerKey h
  let rsv := headerRsv h
  if op = 0x0 then .ok (.reservedOp0 key rsv)
  else if 0xC ≤ op then .ok (.reservedOpcToOpf op key rsv)
  else if rsv ≠ 0 then .error (.reservedBits op)
  else if isKeyless op ∧ key ≠ 0 then .error (.keyOnKeyless op)
  else decodeOp op key w1 w2

/-- The command at the front of a stream of words (R150, R153). -/
def decode : List Word → Decoded
  | [] => .incomplete
  | h :: tail =>
    let n := wordsOfOp (headerOp h) - 1
    if tail.length < n then .incomplete
    else
      match decodeWords h (tail[0]?.getD 0) (tail[1]?.getD 0) with
      | .ok i => .command i (tail.drop n)
      | .error why => .illegal why (tail.drop n)

/-! ### Encoding -/

/-- An int32 operand's word. -/
def wordOfInt (v : Int) : Word := BitVec.ofInt 32 v
/-- A uint32 operand's word. -/
def wordOfNat (v : Nat) : Word := BitVec.ofNat 32 v
/-- The two words of a uint64 operand, low word first (R156). -/
def wordsOfTime (t : Nat) : List Word := [BitVec.ofNat 32 t, BitVec.ofNat 32 (t / 2 ^ 32)]

/-- The words of a command (R151, R152, R154, R155, R156). -/
def encode : Instr → List Word
  | .setAttrWaveform v => [mkHeader 0x1 0x01 0, wordOfInt v]
  | .setAttrDutyCycle v => [mkHeader 0x1 0x02 0, wordOfInt v]
  | .setAttrPeriod v => [mkHeader 0x1 0x03 0, wordOfInt v]
  | .setAttrPhase v => [mkHeader 0x1 0x04 0, wordOfInt v]
  | .setAttrVolume v => [mkHeader 0x1 0x06 0, wordOfInt v]
  | .setAttrVolumeN n v => [mkHeader 0x1 (0x10 + n) 0, wordOfInt v]
  | .setAttrSampleOffset v => [mkHeader 0x1 0x20 0, wordOfInt v]
  | .setAttrSampleEnd v => [mkHeader 0x1 0x21 0, wordOfInt v]
  | .setAttrSamplePeriod v => [mkHeader 0x1 0x22 0, wordOfInt v]
  | .setAttrSampleRepeat v => [mkHeader 0x1 0x23 0, wordOfInt v]
  | .setAttrSampleCallback v => [mkHeader 0x1 0x24 0, wordOfInt v]
  | .getAttrWaveform => [mkHeader 0x2 0x01 0]
  | .getAttrDutyCycle => [mkHeader 0x2 0x02 0]
  | .getAttrPeriod => [mkHeader 0x2 0x03 0]
  | .getAttrPhase => [mkHeader 0x2 0x04 0]
  | .getAttrPhaseCount => [mkHeader 0x2 0x05 0]
  | .getAttrVolume => [mkHeader 0x2 0x06 0]
  | .getAttrStatus => [mkHeader 0x2 0x07 0]
  | .getAttrNumChannels => [mkHeader 0x2 0x08 0]
  | .getAttrVolumeN n => [mkHeader 0x2 (0x10 + n) 0]
  | .getAttrSampleOffset => [mkHeader 0x2 0x20 0]
  | .getAttrSampleEnd => [mkHeader 0x2 0x21 0]
  | .getAttrSamplePeriod => [mkHeader 0x2 0x22 0]
  | .getAttrSampleRepeat => [mkHeader 0x2 0x23 0]
  | .getAttrSampleCallback => [mkHeader 0x2 0x24 0]
  | .getAttrSamplePosition => [mkHeader 0x2 0x25 0]
  | .setPtrWaveform h => [mkHeader 0x3 0x01 0, wordOfNat h]
  | .setPtrSample h => [mkHeader 0x3 0x02 0, wordOfNat h]
  | .getPtrWaveform => [mkHeader 0x4 0x01 0]
  | .getPtrSample => [mkHeader 0x4 0x02 0]
  | .run e => mkHeader 0x5 0 0 :: wordsOfTime e
  | .endChunk t => mkHeader 0x6 0 0 :: wordsOfTime t
  | .reset => [mkHeader 0x7 0 0]
  | .attach n => [mkHeader 0x8 0 0, wordOfInt n]
  | .detach => [mkHeader 0x9 0 0]
  | .dataNotifyReplaced h => [mkHeader 0xA 0x01 0, wordOfNat h]
  | .dataNotifyDisposed h => [mkHeader 0xA 0x02 0, wordOfNat h]
  | .boundaryReply p => [mkHeader 0xB 0 0, wordOfInt p]
  | .reservedOp0 k r => [mkHeader 0x0 k r]
  | .reservedOpcToOpf op k r => [mkHeader op k r]

/-! ### A command given as one number -/

/-- The words of the command whose bits are `w`, bit 0 the least significant bit of the first word, bits from `nbits` up
being 0: as many words as its operation has. -/
def commandWords (nbits w : Nat) : List Word :=
  let v := w % 2 ^ nbits
  let h := BitVec.ofNat 32 v
  [h, BitVec.ofNat 32 (v / 2 ^ 32), BitVec.ofNat 32 (v / 2 ^ 64)].take (wordsOfOp (headerOp h))

/-- The instruction the decoder reads from the command whose bits are `w` (none where it refuses). -/
def decodeTableWord (nbits w : Nat) : Option Instr :=
  match decode (commandWords nbits w) with
  | .command i _ => some i
  | .illegal _ _ => none
  | .incomplete => none

end Sys2Proof
end

