-- ==== Sys2Proof/Config.lean ====
section
/-! DEFINITION. The implementation parameters of 00_scope.md R7, as one record of plain data that a machine is built with
(10_state.md R74: configuration, an argument of the model), the defaults R7 prints, the constraints a configuration must
meet (R8), and the OPEN parameters of the sink's kernel, which have no body (log 15). -/

namespace Sys2Proof

namespace Config

/-- 10_state.md R50: the power-on `samplePeriod`, which is no parameter of R7. -/
abbrev samplePeriodReset : Int := 0x100000
/-- 10_state.md R64: the largest magnitude of `samplePeriod`, which is no parameter of R7. -/
abbrev samplePeriodMax : Int := 0x7FFFFFFF

/-- Which sink operation sample mode uses (R7 `SAMPLE_SINK`, D19). -/
inductive SampleSink where
  | frame
  | pulse
  deriving DecidableEq, Repr

/-- The parameters of R7, in the table's order. `ONE` is derived from `FRAC` (`Params.one`). -/
structure Params where
  /-- `FRAC`: fractional bits of a fixed-point time. -/
  frac : Nat
  /-- `TIME_BITS`: width of the unit time register. -/
  timeBits : Nat
  /-- `PERIOD_MIN`. -/
  periodMin : Nat
  /-- `PERIOD_MAX`. -/
  periodMax : Nat
  /-- `PERIOD_RESET`. -/
  periodReset : Nat
  /-- `MAX_CHANNELS`: number of volume and last-level registers. -/
  maxChannels : Nat
  /-- `MAX_GEN`: the largest chunk in samples. -/
  maxGen : Nat
  /-- `AMP_MAX`. -/
  ampMax : Int
  /-- `FRAME_MIN`. -/
  frameMin : Int
  /-- `FRAME_MAX`. -/
  frameMax : Int
  /-- `VOL_MAX`. -/
  volMax : Nat
  /-- `VOL_FRAC`: fractional bits of a channel volume. -/
  volFrac : Nat
  /-- `N_SQUARE`. -/
  nSquare : Nat
  /-- `N_TRIANGLE`. -/
  nTriangle : Nat
  /-- `N_NOISE`. -/
  nNoise : Nat
  /-- `N_SAWTOOTH`. -/
  nSawtooth : Nat
  /-- `N_SINE`. -/
  nSine : Nat
  /-- `CUSTOM_MIN`. -/
  customMin : Nat
  /-- `CUSTOM_MAX`. -/
  customMax : Nat
  /-- `MAX_FRAMES`. -/
  maxFrames : Nat
  /-- `DUTY_RESET`. -/
  dutyReset : Nat
  /-- `LFSR_BITS`: width of the noise shift register. -/
  lfsrBits : Nat
  /-- `LFSR_SEED`. -/
  lfsrSeed : Nat
  /-- `SAMPLE_SINK`. -/
  sampleSink : SampleSink
  /-- `SINE_TABLE`, "computed once per configuration" (40_phase_advance.md R205). -/
  sineTable : List Int
  deriving DecidableEq, Repr

/-- R7 `ONE`: one sample in time units, `1 << FRAC`. -/
abbrev Params.one (p : Params) : Nat := 2 ^ p.frac

/-- `MAX_GEN << FRAC`, the largest RUN or END operand (41_pulse_generation.md R252). -/
abbrev Params.maxEndTime (p : Params) : Nat := p.maxGen * 2 ^ p.frac

/-- The least level a step can have: `FRAME_MIN` at full volume (41_pulse_generation.md R255). -/
abbrev Params.levelMin (p : Params) : Int := p.frameMin * p.volMax / 2 ^ p.volFrac

/-- The greatest level a step can have: `FRAME_MAX` at full volume (41_pulse_generation.md R255). -/
abbrev Params.levelMax (p : Params) : Int := p.frameMax * p.volMax / 2 ^ p.volFrac

/-- R8: the two constraints without which a configuration is ill-formed. -/
abbrev Params.DeltasFit (p : Params) : Prop :=
  2 * max p.ampMax (-p.frameMin) * p.volMax / 2 ^ p.volFrac < 2 ^ 31 ∧
  (2 ≤ p.nSquare ∧ 2 ≤ p.nTriangle ∧ 2 ≤ p.nNoise ∧ 2 ≤ p.nSawtooth ∧ 2 ≤ p.nSine) ∧
  (p.nTriangle % 2 = 0 ∧ 4 ≤ p.nTriangle)

/-- What a value's stated width asks of the parameters, which R8 does not list (DESIGN CHOICE, log 23): a time fits `TIME_BITS`
and a sink transaction's 64 bits, a channel its 3 bits, a frame 16 bits (20_memory.md R127, R102), a period an int32 operand
(30_encoding.md R157), `pos` signed 64 bits (10_state.md R67), and every answer of GET_ATTR an int32 (45_attribute_read.md
R464, 46_data_pointers.md R501). -/
abbrev Params.WidthsFit (p : Params) : Prop :=
  (p.maxEndTime + p.periodMax ≤ 2 ^ p.timeBits ∧ p.timeBits ≤ 64) ∧
  p.maxChannels ≤ 8 ∧
  (-2 ^ 15 ≤ p.frameMin ∧ p.frameMax < 2 ^ 15) ∧
  p.periodMax < 2 ^ 31 ∧
  (p.maxFrames : Int) * 2 ^ p.frac + samplePeriodMax ≤ 2 ^ 63 ∧
  (p.maxFrames : Int) + (samplePeriodMax - 1) / 2 ^ p.frac < 2 ^ 31 ∧
  (p.volMax < 2 ^ 31 ∧ p.customMax < 2 ^ 31) ∧
  (p.nSquare < 2 ^ 31 ∧ p.nTriangle < 2 ^ 31 ∧ p.nNoise < 2 ^ 31 ∧ p.nSawtooth < 2 ^ 31 ∧ p.nSine < 2 ^ 31)

/-- What the other rules take for granted of the parameters (DEDUCED, log 20): the ranges of 10_state.md R50 are not empty
and hold the power-on values, every amplitude the frame range (40_phase_advance.md R200), and the sine table has `N_SINE`
entries within `AMP_MAX` (R205; that they are the formula's is `Params.SineTableByFormula`). -/
abbrev Params.Consistent (p : Params) : Prop :=
  (1 ≤ p.periodMin ∧ p.periodMin ≤ p.periodReset ∧ p.periodReset ≤ p.periodMax) ∧
  1 ≤ p.maxChannels ∧
  (0 ≤ p.ampMax ∧ p.ampMax ≤ p.frameMax ∧ p.frameMin ≤ -p.ampMax) ∧
  p.frameMax ≤ -p.frameMin ∧
  (1 ≤ p.customMin ∧ p.customMin ≤ p.customMax) ∧
  (1 ≤ p.dutyReset ∧ p.dutyReset < p.nSquare) ∧
  (2 ≤ p.lfsrBits ∧ 0 < p.lfsrSeed ∧ p.lfsrSeed < 2 ^ p.lfsrBits) ∧
  (p.sineTable.length = p.nSine ∧ ∀ a ∈ p.sineTable, -p.ampMax ≤ a ∧ a ≤ p.ampMax)

/-- The configurations a machine can be built with: the others are refused (R8). -/
abbrev Params.WellFormed (p : Params) : Prop := p.DeltasFit ∧ p.Consistent ∧ p.WidthsFit

/-- 40_phase_advance.md R205: `SINE_TABLE[i] = round(AMP_MAX * sin(2 * pi * i / N_SINE))`, halves away from zero. -/
abbrev Params.SineTableByFormula (p : Params) : Prop :=
  ∀ i < p.nSine, ∀ x : ℝ, x = p.ampMax * Real.sin (2 * Real.pi * i / p.nSine) →
    |(p.sineTable.getD i 0 : ℝ) - x| ≤ 1 / 2 ∧
      (|(p.sineTable.getD i 0 : ℝ) - x| = 1 / 2 → |x| < |(p.sineTable.getD i 0 : ℝ)|)

/-- 40_phase_advance.md R206: the default SINE_TABLE, verbatim. -/
def defaultSineTable : List Int :=
  [0, 6393, 12539, 18204, 23170, 27245, 30273, 32137, 32767, 32137, 30273, 27245, 23170, 18204, 12539, 6393] ++
  [0, -6393, -12539, -18204, -23170, -27245, -30273, -32137, -32767, -32137, -30273, -27245, -23170, -18204, -12539, -6393]

/-- The column *default* of R7 (log 1; VOL_MAX, the five phase counts and CUSTOM_MAX are 93_implementation_defined.md G1,
G2, G3). -/
def default : Params where
  frac := 20
  timeBits := 64
  periodMin := 1
  periodMax := 0x7FFFFFFF
  periodReset := 0x100000
  maxChannels := 8
  maxGen := 4096
  ampMax := 32767
  frameMin := -32768
  frameMax := 32767
  volMax := 32767
  volFrac := 15
  nSquare := 16
  nTriangle := 32
  nNoise := 8
  nSawtooth := 7
  nSine := 32
  customMin := 2
  customMax := 64
  maxFrames := 0x40000000
  dutyReset := 4
  lfsrBits := 15
  lfsrSeed := 0x0001
  sampleSink := .frame
  sineTable := defaultSineTable

/-! ### The sink's kernel, OPEN (20_memory.md R112, D52; log 15)

The five constants without a body are free. A kernel has at least one phase and one tap, and each phase's last coefficient is
what brings the sum of its taps to unity, so that every kernel of which R112 speaks, and no other, stands here. -/

/-- The phases but one. -/
opaque morePhases : Nat
/-- The taps but one. -/
opaque moreTaps : Nat
/-- The coefficient of a phase and a tap, but for the last tap. -/
opaque freeCoefficient : Nat → Nat → Int
/-- Unity, in the coefficients' own format. -/
opaque kernelUnity : Int
/-- R112 `Kmul`: coefficient times delta. -/
opaque kmul : Int → Int → Int

/-- R7 `STEP_UNIT`: the kernel's phases. -/
def stepUnit : Nat := morePhases + 1
/-- R7 `STEP_WIDTH`: the kernel's taps. -/
def stepWidth : Nat := moreTaps + 1
/-- R7 `KERNEL`, by phase, then tap; the taps of a phase sum to unity (R112). -/
def kernel (phase tap : Nat) : Int :=
  if tap < moreTaps then freeCoefficient phase tap
  else kernelUnity - ((List.range moreTaps).map (freeCoefficient phase)).sum

end Config

end Sys2Proof
end

