-- ==== Sys2Proof/Machine/State.lean ====
section
/-! DEFINITION. The oscillator's state (10_state.md R50), the data memory and the ports around it, the reasons a step can
stop, and the state after power-on reset (70_reset_and_hazards.md R700). Registers are integers constrained to ranges
(00_scope.md R9); the ranges are `State.Inv` of Safety.lean (log 14). -/

namespace Sys2Proof.Machine

/-- The seven waveforms (R52). -/
inductive Waveform where
  | custom
  | square
  | triangle
  | noise
  | sawtooth
  | sine
  | sample
  deriving DecidableEq, Repr

/-- The repeat policies (R65). -/
inductive Policy where
  | none
  | repeats
  | palindrome
  deriving DecidableEq, Repr

/-- The playback direction multiplier, +1 or -1 (R68). -/
inductive Dir where
  | forward
  | reverse
  deriving DecidableEq, Repr

/-- Which end of the sample range was crossed (R307, R320). -/
inductive Edge where
  | atEnd
  | atStart
  deriving DecidableEq, Repr

/-- The status codes (60_exceptions.md R600). -/
inductive Status where
  | ok
  | allocation
  | invalidAttribute
  | invalidValue
  | invalidState
  | invalidNumChannels
  | invalidNumFrames
  | invalidNumBits
  | invalidReturnValue
  deriving DecidableEq, Repr

/-- One step taken: its time, and its amplitude on each channel below `nch` (R251). -/
structure StepRecord where
  time : Nat
  amps : List Int
  deriving DecidableEq, Repr

/-- Which command a boundary request suspended (R71); END carries the shift still to be applied (R270). -/
inductive SuspKind where
  | run
  | endChunk (shift : Nat)
  deriving DecidableEq, Repr

/-- The step in progress when a boundary request was raised (R71 `cur`, R320 item 1). -/
structure StepInProgress where
  time : Nat
  amps : List Int
  edge : Edge
  deriving DecidableEq, Repr

/-- The suspended command (R71). -/
structure Susp where
  kind : SuspKind
  endTime : Nat
  steps : List StepRecord
  cur : StepInProgress
  deriving DecidableEq, Repr

/-- The frame and channel count the oscillator validated for a handle: bookkeeping of R605 (log 7). -/
structure Shape where
  frames : Nat
  channels : Nat
  deriving DecidableEq, Repr

/-- Bytes by address, strictly rising, no entry 0 (log 6). -/
abbrev Memory := List Host.Cell

/-- One live Data object of the data-memory port (20_memory.md R101): its frame count, its channel count, and its bytes
by offset from its base, laid out as R103 says. -/
structure DataObject where
  frames : Nat
  channels : Nat
  bytes : Memory
  deriving DecidableEq, Repr

/-- What has become of the object behind a held handle since the oscillator validated it (R125, R605; log 22): it is still
there; the host has put another behind the handle and left this one; or the host has disposed it. -/
inductive Identity where
  | same
  | replaced (former : DataObject)
  | disposed
  deriving DecidableEq, Repr

/-- A live handle and its object. -/
structure DataEntry where
  handle : Nat
  object : DataObject
  deriving DecidableEq, Repr

/-- The two sink operations (R110). -/
inductive SinkKind where
  | addPulse
  | addFrame
  deriving DecidableEq, Repr

/-- One transaction on the sink port (R110): `AddPulse(c, t, d)` or `AddFrame(c, t, d)`. -/
structure SinkTx where
  kind : SinkKind
  channel : Nat
  time : Nat
  delta : Int
  deriving DecidableEq, Repr

/-- What the oscillator puts on its output ports: a response of one or two words (R160), a sink transaction (R110), or
the boundary request with its edge and the integer position (R320 item 2). -/
inductive PortEvent where
  | response (status : Word) (value : Option Word)
  | sink (tx : SinkTx)
  | boundaryRequest (e : Edge) (position : Int)
  deriving DecidableEq, Repr

/-- Why the machine stops. Each reason carries what stood on the output ports then, so that the responses and transactions
before the stop are kept (10_state.md R74, 60_exceptions.md R605). -/
inductive Fault where
  /-- A custom or sample step read a Data object that is no longer live, or whose frame or channel count the host changed
  without DATA_NOTIFY (R605, R106). Raised by `readFrame`. Safe: the spec itself stops the model here. -/
  | dataShapeChanged (out : List PortEvent)
  /-- A step would read a frame outside its Data object. R104: no rule does while the invariants of R75 hold, so only
  states no run reaches raise it. Raised by `readFrame`. Safe: the model stops (log 9). -/
  | frameOutOfRange (out : List PortEvent)
  deriving DecidableEq, Repr

/-- Why a step has no meaning. -/
inductive Refusal where
  /-- The instruction has no meaning in this model yet. Raised by `exec`'s refused arms only, of which there are none.
  Safe: the model stops. -/
  | notModelled (mnemonic : String)
  deriving DecidableEq, Repr

/-- The machine: the fields of R50 in the table's order, then the model's own fields (the configuration of R74, the
bookkeeping of R605 and R125, the data memory of R101, the command port, and the record of the output ports). `volume` and `last`
hold one register for each of the MAX_CHANNELS channels, and `lfsr` is LFSR_BITS wide. -/
structure State where
  attached : Bool
  nch : Nat
  waveform : Waveform
  phase : Nat
  duty : Nat
  period : Nat
  volume : List Nat
  time : Nat
  last : List Int
  lfsr : Nat
  wavePtr : Nat
  samplePtr : Nat
  sampleOffset : Nat
  sampleEnd : Nat
  samplePeriod : Int
  sampleRepeat : Policy
  sampleCallback : Bool
  pos : Int
  dir : Dir
  halted : Bool
  pending : Bool
  susp : Option Susp
  /-- The parameters of 00_scope.md R7 this machine is built with, which no command writes (R74; log 1). -/
  cfg : Config.Params
  /-- The shape validated for `wavePtr` (R605; log 7). -/
  waveShape : Shape
  /-- The shape validated for `samplePtr` (R605; log 7). -/
  sampleShape : Shape
  /-- What has become of the object validated for `wavePtr` (R125; log 22). -/
  waveIdentity : Identity
  /-- What has become of the object validated for `samplePtr` (R125; log 22). -/
  sampleIdentity : Identity
  /-- The live Data objects, by strictly rising handle (R101; log 6). -/
  data : List DataEntry
  /-- Command words that have arrived and are not yet taken, oldest first (R120, R150; log 2). -/
  cmd : List Word
  /-- Everything put on the output ports, oldest first (R121; log 5). -/
  out : List PortEvent
  deriving DecidableEq, Repr

/-- Power-on reset (R700) of a machine with these parameters. The model's other own fields are empty (log 2, log 5, log 6,
log 7, log 22). -/
def State.powerOn (p : Config.Params) : State where
  attached := false
  nch := 0
  waveform := .square
  phase := 0
  duty := p.dutyReset
  period := p.periodReset
  volume := List.replicate p.maxChannels 0
  time := 0
  last := List.replicate p.maxChannels 0
  lfsr := p.lfsrSeed
  wavePtr := 0
  samplePtr := 0
  sampleOffset := 0
  sampleEnd := 0
  samplePeriod := Config.samplePeriodReset
  sampleRepeat := .none
  sampleCallback := false
  pos := 0
  dir := .forward
  halted := false
  pending := false
  susp := none
  cfg := p
  waveShape := ⟨0, 0⟩
  sampleShape := ⟨0, 0⟩
  waveIdentity := .same
  sampleIdentity := .same
  data := []
  cmd := []
  out := []

/-- A machine with these parameters, right after power-on. An ill-formed configuration is refused (00_scope.md R8), and a sine
table that is not the formula's cannot be given at all (40_phase_advance.md R205). -/
def State.resetWith (p : Config.Params) (_ : p.SineTableByFormula) : Option State :=
  if p.WellFormed then some (State.powerOn p) else none

/-- Power-on reset of the machine with R7's defaults (log 1). -/
def State.reset : State := State.powerOn Config.default

/-- The outcome of a step or of an instruction. -/
abbrev Result := Host.Outcome State Fault Refusal

end Sys2Proof.Machine
end

