-- ==== Sys2Proof/Machine/Operands.lean ====
section
/-! DEFINITION. The arithmetic primitives of 00_scope.md R10, the codes of the enumerations and of the statuses, and the
words that carry values on the response port. -/

namespace Sys2Proof.Machine

/-! ### Arithmetic primitives (R10) -/

/-- `a >> k` on a signed integer: `floor(a / 2^k)`. -/
def asr (a : Int) (k : Nat) : Int := a / 2 ^ k

/-- `a div b`: truncating toward zero. -/
def truncDiv (a b : Int) : Int := a.tdiv b

/-- `clamp(v, lo, hi) = min(max(v, lo), hi)`. -/
def clampInt (v lo hi : Int) : Int := min (max v lo) hi

/-- `clamp` into a range of naturals. -/
def clampNat (v : Int) (lo hi : Nat) : Nat := (clampInt v lo hi).toNat

/-- Whole samples as a fixed-point position: `n << FRAC`. -/
def fixedOf (p : Config.Params) (n : Nat) : Int := (n : Int) * 2 ^ p.frac

/-- `floor_s(t) << FRAC`: the whole samples of a time, as a time (R9, R270). -/
def wholeSamples (p : Config.Params) (t : Nat) : Nat := t / 2 ^ p.frac * 2 ^ p.frac

/-! ### Codes -/

/-- 60_exceptions.md R600. -/
def Status.code : Status → Int
  | .ok => 0
  | .allocation => -1
  | .invalidAttribute => -2
  | .invalidValue => -3
  | .invalidState => -4
  | .invalidNumChannels => -5
  | .invalidNumFrames => -6
  | .invalidNumBits => -7
  | .invalidReturnValue => -8

/-- 10_state.md R52. -/
def Waveform.code : Waveform → Int
  | .custom => 0
  | .square => 1
  | .triangle => 2
  | .noise => 3
  | .sawtooth => 4
  | .sine => 5
  | .sample => 6

/-- 44_attribute_write.md R400: the codes SET_ATTR WAVEFORM accepts. CUSTOM and SAMPLE are not among them. -/
def builtinOfCode (v : Int) : Option Waveform :=
  if v = 1 then some .square
  else if v = 2 then some .triangle
  else if v = 3 then some .noise
  else if v = 4 then some .sawtooth
  else if v = 5 then some .sine
  else none

/-- 10_state.md R65. -/
def Policy.code : Policy → Int
  | .none => 0
  | .repeats => 1
  | .palindrome => 2

/-- The policy a code names (R65, R322, R409). -/
def policyOfCode (v : Int) : Option Policy :=
  if v = 0 then some .none
  else if v = 1 then some .repeats
  else if v = 2 then some .palindrome
  else none

/-- 10_state.md R68: the direction multiplier. -/
def Dir.sign : Dir → Int
  | .forward => 1
  | .reverse => -1

/-- 42_sample_playback.md R310: `dir <- -dir`. -/
def Dir.flip : Dir → Dir
  | .forward => .reverse
  | .reverse => .forward

/-- 42_sample_playback.md R320: the code the boundary request carries. -/
def Edge.code : Edge → Int
  | .atEnd => 0
  | .atStart => 1

/-! ### Response words (30_encoding.md R160) -/

/-- A two's-complement int32. -/
def int32Word (v : Int) : Word := BitVec.ofInt 32 v

/-- A uint32. -/
def uint32Word (v : Nat) : Word := BitVec.ofNat 32 v

/-- A status as a response word. -/
def Status.word (st : Status) : Word := int32Word st.code

/-- A one-bit field as an integer. -/
def boolInt (b : Bool) : Int := if b then 1 else 0

end Sys2Proof.Machine
end

