-- ==== Sys2Proof/Machine/Flags.lean ====
section
/-! DEFINITION. The flags of the STATUS word (10_state.md R70, R456). -/

namespace Sys2Proof.Machine

/-- The four flags of R70. -/
inductive Flag where
  | attached
  | halted
  | boundaryPending
  | reverse
  deriving DecidableEq, Repr

/-- R70, the column *bit*. -/
def Flag.bit : Flag → Nat
  | .attached => 0
  | .halted => 1
  | .boundaryPending => 2
  | .reverse => 3

/-- R70, the column *value*. -/
def State.flag (s : State) : Flag → Bool
  | .attached => s.attached
  | .halted => s.halted
  | .boundaryPending => s.pending
  | .reverse => s.dir == .reverse

/-- One flag at its place in the STATUS word. -/
def flagWord (s : State) (f : Flag) : Word := if s.flag f then BitVec.twoPow 32 f.bit else 0

/-- The STATUS word: bits 31:4 read as 0. -/
def statusWord (s : State) : Word :=
  flagWord s .attached ||| flagWord s .halted ||| flagWord s .boundaryPending ||| flagWord s .reverse

end Sys2Proof.Machine
end

