-- ==== Sys2Proof/Machine/Ops.lean ====
section
/-! DEFINITION. The shared operations: data memory, registers, responses and failures, the restart of playback, the
time-state reset, and the entry into the boundary wait with the return from it beside it. -/

namespace Sys2Proof.Machine

/-! ### Data memory (20_memory.md R101 to R106) -/

/-- The canonical form: addresses strictly rising, and no entry equal to what an unlisted address reads as. -/
abbrev Memory.wf (m : Memory) : Prop := m.Pairwise (fun x y => x.1 < y.1) ∧ ∀ x ∈ m, x.2 ≠ 0

/-- What an address that no entry lists reads as (DESIGN CHOICE, log 6). -/
def unlistedByte : BitVec 8 := 0

/-- One byte. -/
def readByte : Memory → Nat → BitVec 8
  | [], _ => unlistedByte
  | (b, v) :: m, a => if b = a then v else readByte m a

/-- Store one byte, keeping the canonical form. Only the host writes data memory (R105, R106). -/
def writeByte : Memory → Nat → BitVec 8 → Memory
  | [], a, v => if v = unlistedByte then [] else [(a, v)]
  | (b, w) :: m, a, v =>
    if a < b then (if v = unlistedByte then (b, w) :: m else (a, v) :: (b, w) :: m)
    else if a = b then (if v = unlistedByte then m else (a, v) :: m)
    else (b, w) :: writeByte m a v

/-- R103: the offset of frame `(i, k)` in an object of `K` channels. -/
def frameOffset (K i k : Nat) : Nat := 2 * (i * K + k)

/-- R102, R103: one frame, two bytes little-endian, signed. -/
def objectFrame (o : DataObject) (i k : Nat) : Int :=
  (readByte o.bytes (frameOffset o.channels i k + 1) ++ readByte o.bytes (frameOffset o.channels i k)).toInt

/-- The object a handle names; handle 0 names none (R101). -/
def findObject : List DataEntry → Nat → Option DataObject
  | [], _ => none
  | e :: d, h => if e.handle = h ∧ h ≠ 0 then some e.object else findObject d h

/-- The frame and channel count of an object (R101). -/
abbrev DataObject.shape (o : DataObject) : Shape := ⟨o.frames, o.channels⟩

/-- `DataFrames(h)` and `DataChannels(h)` of a live handle; none where `DataLive(h)` is false (R101). -/
def dataShape (s : State) (h : Nat) : Option Shape := (findObject s.data h).map DataObject.shape

/-- `DataFrame(h, i, k)`; none outside the object (R101). -/
def dataFrame (s : State) (h i k : Nat) : Option Int :=
  match findObject s.data h with
  | none => none
  | some o => if i < o.frames ∧ k < o.channels then some (objectFrame o i k) else none

/-- The object a handle named when it was validated, where the host has since put another behind it (R125). -/
def Identity.former : Identity → Option DataObject
  | .same => none
  | .replaced o => some o
  | .disposed => none

/-- The object a step reads for a held handle; none where the host broke its duty (R605, R106): the object validated is no
longer live, or what the port answers for the handle has another frame or channel count. An object of the same counts put
behind the handle is seen only after DATA_NOTIFY (R125): until then the former one is read (log 22). -/
def heldObject (s : State) (h : Nat) (held : Shape) (id : Identity) : Option DataObject :=
  if dataShape s h = some held then
    match id with
    | .same => findObject s.data h
    | .replaced former => some former
    | .disposed => none
  else none

/-- A step's read of a frame: it faults where the host broke its duty (R605), and never reads outside the object (R104). -/
def readFrame (s : State) (h : Nat) (held : Shape) (id : Identity) (i : Int) (k : Nat) : Except Fault Int :=
  match heldObject s h held id with
  | none => .error (.dataShapeChanged s.out)
  | some o =>
    if 0 ≤ i ∧ i.toNat < o.frames ∧ k < o.channels then .ok (objectFrame o i.toNat k)
    else .error (.frameOutOfRange s.out)

/-- 46_data_pointers.md R509 `WaveOK`, on what the port answers for the handle. -/
def waveOK (p : Config.Params) (shape : Option Shape) : Bool :=
  match shape with
  | none => false
  | some sh => decide (p.customMin ≤ sh.frames ∧ sh.frames ≤ p.customMax)

/-- 46_data_pointers.md R509 `SampleOK`. -/
def sampleOK (p : Config.Params) (shape : Option Shape) : Bool :=
  match shape with
  | none => false
  | some sh => decide (1 ≤ sh.frames ∧ sh.frames ≤ p.maxFrames)

/-! ### Per-channel registers -/

/-- `volume[c]`. -/
def State.volumeAt (s : State) (c : Nat) : Nat := s.volume[c]?.getD 0

/-- `last[c]`. -/
def State.lastAt (s : State) (c : Nat) : Int := s.last[c]?.getD 0

/-- `volume[c] <- v`. -/
def State.setVolume (s : State) (c v : Nat) : State := { s with volume := s.volume.set c v }

/-- `volume[c] <- v` for every c. -/
def State.setAllVolumes (s : State) (v : Nat) : State := { s with volume := List.replicate s.cfg.maxChannels v }

/-- `last[c] <- l`. -/
def State.setLast (s : State) (c : Nat) (l : Int) : State := { s with last := s.last.set c l }

/-! ### Responses and failures (30_encoding.md R160, 60_exceptions.md R601) -/

/-- Put events on the output ports. -/
def State.emit (s : State) (es : List PortEvent) : State := { s with out := s.out ++ es }

/-- `respond(status)`. -/
def State.respond (s : State) (st : Status) : State := s.emit [.response st.word none]

/-- `respond(status, value)`. -/
def State.respondValue (s : State) (st : Status) (v : Word) : State := s.emit [.response st.word (some v)]

/-- A command that succeeds with the state `s`. -/
def succeed (s : State) : Result := .next (s.respond .ok)

/-- A GET that succeeds with the value `v`. -/
def answer (v : Word) (s : State) : Result := .next (s.respondValue .ok v)

/-- `fail(code)` of a command that answers one word: nothing else changes (R601). -/
def fail (st : Status) (s : State) : Result := .next (s.respond st)

/-- `fail(code)` of GET_ATTR and GET_PTR: the value word is 0 (R601). -/
def failValue (st : Status) (s : State) : Result := .next (s.respondValue st 0)

/-- The answer to an encoding that stands for no instruction: 30_encoding.md R158, in the order of 60_exceptions.md R610
(a header failure comes before the pending rule, the pending rule before a key failure). -/
def rejectIllegal (why : Illegal) (s : State) : Result :=
  match why with
  | .reservedBits op => if hasValueWord op then failValue .invalidState s else fail .invalidState s
  | .keyOnKeyless _ => fail .invalidState s
  | .unlistedKey op =>
    if hasValueWord op then failValue .invalidAttribute s
    else if s.pending then fail .invalidState s
    else fail .invalidAttribute s
  | .readOnlyKey => if s.pending then fail .invalidState s else fail .invalidAttribute s

/-! ### Phase count, range bounds, restart, time-state reset -/

/-- `PhaseCount(u)` (10_state.md R53). `DataFrames(wavePtr)` is the count validated for the handle: a change is seen only
after DATA_NOTIFY (20_memory.md R125), and GET_ATTR reads no data memory (45_attribute_read.md R465) (DEDUCED, log 7). -/
def phaseCount (s : State) : Nat :=
  match s.waveform with
  | .square => s.cfg.nSquare
  | .triangle => s.cfg.nTriangle
  | .noise => s.cfg.nNoise
  | .sawtooth => s.cfg.nSawtooth
  | .sine => s.cfg.nSine
  | .custom => s.waveShape.frames
  | .sample => 1

/-- 42_sample_playback.md R300: `O = sampleOffset << FRAC`. -/
def rangeLo (s : State) : Int := fixedOf s.cfg s.sampleOffset

/-- 42_sample_playback.md R300: `E = sampleEnd << FRAC`. -/
def rangeHi (s : State) : Int := fixedOf s.cfg s.sampleEnd

/-- `Restart(u)` (42_sample_playback.md R302). -/
def restart (s : State) : State :=
  if s.samplePtr = 0 ∨ s.sampleEnd ≤ s.sampleOffset then
    { s with dir := .forward, halted := decide (s.samplePtr ≠ 0), pos := rangeLo s }
  else
    { s with
      dir := .forward
      halted := false
      pos := if 0 ≤ s.samplePeriod then rangeLo s else rangeHi s - s.cfg.one }

/-- `ClearTime(u)` (43_lifecycle.md R357). -/
def clearTime (s : State) : State :=
  restart { s with time := 0, phase := 0, last := List.replicate s.cfg.maxChannels 0, lfsr := s.cfg.lfsrSeed }

/-! ### The boundary wait: the oscillator's only event (60_exceptions.md R606 to R608) -/

/-- Entry into the boundary wait (R607, 42_sample_playback.md R320 items 1 and 2): the suspended command is saved with the
step in progress, `pending` is set, and the request goes out with its edge and the integer position. Nothing else
changes. -/
def enterBoundaryWait (kind : SuspKind) (endTime : Nat) (steps : List StepRecord) (cur : StepInProgress) (s : State) :
    State :=
  { s with
    pending := true
    susp := some ⟨kind, endTime, steps, cur⟩
    out := s.out ++ [.boundaryRequest cur.edge (asr s.pos s.cfg.frac)] }

/-- Return from the boundary wait (R608, 42_sample_playback.md R322): `pending` is cleared, the record is given up to the
resumed command, and the reply's own response comes first (R323). -/
def leaveBoundaryWait (s : State) : State := State.respond { s with pending := false, susp := none } .ok

end Sys2Proof.Machine
end

