-- ==== Sys2Proof/Machine/AttributeRead.lean ====
section
/-! DEFINITION. GET_ATTR (45_attribute_read.md), one meaning per key. None writes a register, and every one is performed
while pending and while detached (R465). -/

namespace Sys2Proof.Machine

/-- GET_ATTR WAVEFORM (R450). -/
def execGetAttrWaveform (s : State) : Result := answer (int32Word s.waveform.code) s

/-- GET_ATTR DUTY_CYCLE (R451). -/
def execGetAttrDutyCycle (s : State) : Result := answer (int32Word s.duty) s

/-- GET_ATTR PERIOD (R452). -/
def execGetAttrPeriod (s : State) : Result := answer (int32Word s.period) s

/-- GET_ATTR PHASE (R453): the phase of the next step. -/
def execGetAttrPhase (s : State) : Result := answer (int32Word s.phase) s

/-- GET_ATTR PHASE_COUNT (R454). -/
def execGetAttrPhaseCount (s : State) : Result := answer (int32Word (phaseCount s)) s

/-- GET_ATTR VOLUME (R455): the gain of channel 0. -/
def execGetAttrVolume (s : State) : Result := answer (int32Word (s.volumeAt 0)) s

/-- GET_ATTR STATUS (R456). -/
def execGetAttrStatus (s : State) : Result := answer (statusWord s) s

/-- GET_ATTR NUM_CHANNELS (R457). -/
def execGetAttrNumChannels (s : State) : Result := answer (int32Word s.nch) s

/-- GET_ATTR VOLUME_n (R458). A configuration with fewer than 8 channels lists no key for the others (DEDUCED, log 21). -/
def execGetAttrVolumeN (n : Nat) (s : State) : Result :=
  if n < s.cfg.maxChannels then answer (int32Word (s.volumeAt n)) s else failValue .invalidAttribute s

/-- GET_ATTR SAMPLE_OFFSET (R459). -/
def execGetAttrSampleOffset (s : State) : Result := answer (int32Word s.sampleOffset) s

/-- GET_ATTR SAMPLE_END (R460). -/
def execGetAttrSampleEnd (s : State) : Result := answer (int32Word s.sampleEnd) s

/-- GET_ATTR SAMPLE_PERIOD (R461): the value written, not the effective step. -/
def execGetAttrSamplePeriod (s : State) : Result := answer (int32Word s.samplePeriod) s

/-- GET_ATTR SAMPLE_REPEAT (R462). -/
def execGetAttrSampleRepeat (s : State) : Result := answer (int32Word s.sampleRepeat.code) s

/-- GET_ATTR SAMPLE_CALLBACK (R463). -/
def execGetAttrSampleCallback (s : State) : Result := answer (int32Word (boolInt s.sampleCallback)) s

/-- GET_ATTR SAMPLE_POSITION (R464): the frame index of the position, which fits an int32 in every well-formed configuration
(`Config.Params.WidthsFit`; log 23). -/
def execGetAttrSamplePosition (s : State) : Result := answer (int32Word (asr s.pos s.cfg.frac)) s

end Sys2Proof.Machine
end

