-- ==== Sys2Proof/Machine/AttributeWrite.lean ====
section
/-! DEFINITION. SET_ATTR (44_attribute_write.md), one meaning per writable key. Every one follows R411: the pending rule,
the key's own checks, its effect, and the response 0. -/

namespace Sys2Proof.Machine

/-- SET_ATTR WAVEFORM (R400): a change of waveform restarts the phase, a rewrite of the current one does not. -/
def execSetAttrWaveform (value : Int) (s : State) : Result :=
  if s.pending then fail .invalidState s
  else
    match builtinOfCode value with
    | none => fail .invalidValue s
    | some w => if w = s.waveform then succeed s else succeed { s with waveform := w, phase := 0 }

/-- SET_ATTR DUTY_CYCLE (R401). -/
def execSetAttrDutyCycle (value : Int) (s : State) : Result :=
  if s.pending then fail .invalidState s
  else succeed { s with duty := clampNat value 1 (s.cfg.nSquare - 1) }

/-- SET_ATTR PERIOD (R402). -/
def execSetAttrPeriod (value : Int) (s : State) : Result :=
  if s.pending then fail .invalidState s
  else succeed { s with period := clampNat value s.cfg.periodMin s.cfg.periodMax }

/-- SET_ATTR PHASE (R403): in SAMPLE mode the write restarts playback. -/
def execSetAttrPhase (value : Int) (s : State) : Result :=
  if s.pending then fail .invalidState s
  else
    let t := { s with phase := clampNat value 0 (phaseCount s - 1) }
    succeed (if s.waveform = .sample then restart t else t)

/-- SET_ATTR VOLUME (R404). -/
def execSetAttrVolume (value : Int) (s : State) : Result :=
  if s.pending then fail .invalidState s
  else succeed (s.setAllVolumes (clampNat value 0 s.cfg.volMax))

/-- SET_ATTR VOLUME_n (R405). A configuration with fewer than 8 channels lists no key for the others (DEDUCED, log 21). -/
def execSetAttrVolumeN (n : Nat) (value : Int) (s : State) : Result :=
  if s.pending then fail .invalidState s
  else if s.cfg.maxChannels ≤ n then fail .invalidAttribute s
  else succeed (s.setVolume n (clampNat value 0 s.cfg.volMax))

/-- SET_ATTR SAMPLE_OFFSET (R406). The clamp's bound is the frame count validated for `samplePtr` (R125; log 7). -/
def execSetAttrSampleOffset (value : Int) (s : State) : Result :=
  if s.pending then fail .invalidState s
  else if s.samplePtr = 0 then fail .invalidState s
  else succeed (restart { s with sampleOffset := clampNat value 0 s.sampleShape.frames })

/-- SET_ATTR SAMPLE_END (R407). The clamp's bound is the frame count validated for `samplePtr` (R125; log 7). -/
def execSetAttrSampleEnd (value : Int) (s : State) : Result :=
  if s.pending then fail .invalidState s
  else if s.samplePtr = 0 then fail .invalidState s
  else succeed (restart { s with sampleEnd := clampNat value 0 s.sampleShape.frames })

/-- SET_ATTR SAMPLE_PERIOD (R408). -/
def execSetAttrSamplePeriod (value : Int) (s : State) : Result :=
  if s.pending then fail .invalidState s
  else succeed { s with samplePeriod := clampInt value (-Config.samplePeriodMax) Config.samplePeriodMax }

/-- SET_ATTR SAMPLE_REPEAT (R409). -/
def execSetAttrSampleRepeat (value : Int) (s : State) : Result :=
  if s.pending then fail .invalidState s
  else
    match policyOfCode value with
    | none => fail .invalidValue s
    | some p => succeed { s with sampleRepeat := p }

/-- SET_ATTR SAMPLE_CALLBACK (R410). -/
def execSetAttrSampleCallback (value : Int) (s : State) : Result :=
  if s.pending then fail .invalidState s
  else succeed { s with sampleCallback := clampInt value 0 1 == 1 }

end Sys2Proof.Machine
end

