-- ==== Sys2Proof/Machine/DataPointers.lean ====
section
/-! DEFINITION. SET_PTR, GET_PTR and DATA_NOTIFY (46_data_pointers.md). Beside each handle the machine keeps the shape it
validated (60_exceptions.md R605), and what has become of the object since (20_memory.md R125). -/

namespace Sys2Proof.Machine

/-- `DropWave(u)` (R507). -/
def dropWave (s : State) : State :=
  let t := { s with wavePtr := 0, waveShape := ⟨0, 0⟩, waveIdentity := .same }
  if s.waveform = .custom then { t with waveform := .square, phase := 0 } else t

/-- `DropSample(u)` (R508). -/
def dropSample (s : State) : State :=
  let t := { s with samplePtr := 0, sampleShape := ⟨0, 0⟩, sampleIdentity := .same, sampleOffset := 0, sampleEnd := 0 }
  restart (if s.waveform = .sample then { t with waveform := .square, phase := 0 } else t)

/-- SET_PTR WAVEFORM (R500, R504). -/
def execSetPtrWaveform (handle : Nat) (s : State) : Result :=
  if s.pending then fail .invalidState s
  else if handle = 0 then succeed (dropWave s)
  else
    match dataShape s handle with
    | none => fail .invalidValue s
    | some sh =>
      if waveOK s.cfg (some sh) then
        succeed { s with wavePtr := handle, waveShape := sh, waveIdentity := .same, waveform := .custom, phase := 0 }
      else fail .invalidNumFrames s

/-- SET_PTR SAMPLE (R501, R504). -/
def execSetPtrSample (handle : Nat) (s : State) : Result :=
  if s.pending then fail .invalidState s
  else if handle = 0 then succeed (dropSample s)
  else
    match dataShape s handle with
    | none => fail .invalidValue s
    | some sh =>
      if sampleOK s.cfg (some sh) then
        succeed (restart
          { s with
            samplePtr := handle
            sampleShape := sh
            sampleIdentity := .same
            waveform := .sample
            phase := 0
            sampleOffset := 0
            sampleEnd := sh.frames })
      else fail .invalidNumFrames s

/-- GET_PTR WAVEFORM (R502). -/
def execGetPtrWaveform (s : State) : Result := answer (uint32Word s.wavePtr) s

/-- GET_PTR SAMPLE (R503). -/
def execGetPtrSample (s : State) : Result := answer (uint32Word s.samplePtr) s

/-- The wave part of DATA_NOTIFY REPLACED (R505). -/
def replaceWave (handle : Nat) (s : State) : State :=
  if s.wavePtr = handle then
    match dataShape s handle with
    | none => dropWave s
    | some sh =>
      if waveOK s.cfg (some sh) then
        if s.waveform = .custom then { s with waveShape := sh, waveIdentity := .same, phase := 0 } else { s with waveShape := sh, waveIdentity := .same }
      else dropWave s
  else s

/-- The sample part of DATA_NOTIFY REPLACED (R505). -/
def replaceSample (handle : Nat) (s : State) : State :=
  if s.samplePtr = handle then
    match dataShape s handle with
    | none => dropSample s
    | some sh =>
      if sampleOK s.cfg (some sh) then
        restart { s with sampleShape := sh, sampleIdentity := .same, sampleOffset := 0, sampleEnd := sh.frames }
      else dropSample s
  else s

/-- DATA_NOTIFY REPLACED (R505): the wave part runs first. -/
def execDataNotifyReplaced (handle : Nat) (s : State) : Result :=
  if s.pending then fail .invalidState s
  else if handle = 0 then fail .invalidValue s
  else succeed (replaceSample handle (replaceWave handle s))

/-- The wave part of DATA_NOTIFY DISPOSED (R506). -/
def disposeWave (handle : Nat) (s : State) : State := if s.wavePtr = handle then dropWave s else s

/-- The sample part of DATA_NOTIFY DISPOSED (R506). -/
def disposeSample (handle : Nat) (s : State) : State := if s.samplePtr = handle then dropSample s else s

/-- DATA_NOTIFY DISPOSED (R506). -/
def execDataNotifyDisposed (handle : Nat) (s : State) : Result :=
  if s.pending then fail .invalidState s
  else if handle = 0 then fail .invalidValue s
  else succeed (disposeSample handle (disposeWave handle s))

end Sys2Proof.Machine
end

