-- ==== Sys2Proof/Machine/Lifecycle.lean ====
section
/-! DEFINITION. RESET, ATTACH and DETACH (43_lifecycle.md), and the reserved operations (30_encoding.md R158 item 1). -/

namespace Sys2Proof.Machine

/-- RESET (R350). -/
def execReset (s : State) : Result :=
  if s.pending then fail .invalidState s
  else succeed (clearTime s)

/-- ATTACH (R352). -/
def execAttach (nch : Int) (s : State) : Result :=
  if s.pending then fail .invalidState s
  else if s.attached then fail .invalidState s
  else if nch < 1 ∨ (s.cfg.maxChannels : Int) < nch then fail .invalidNumChannels s
  else succeed (clearTime { s with attached := true, nch := nch.toNat })

/-- DETACH (R354). -/
def execDetach (s : State) : Result :=
  if s.pending then fail .invalidState s
  else if s.attached = false then fail .invalidState s
  else succeed (clearTime { s with attached := false, nch := 0 })

/-- Reserved operation 0x0 (R158 item 1): INVALID_STATE, whatever its other fields. -/
def execReservedOp0 (s : State) : Result := fail .invalidState s

/-- Reserved operations 0xC to 0xF (R158 item 1): INVALID_STATE, whatever their other fields. -/
def execReservedOpcToOpf (s : State) : Result := fail .invalidState s

end Sys2Proof.Machine
end

