-- ==== Sys2Proof/Machine/SamplePlayback.lean ====
section
/-! DEFINITION. Sample playback (42_sample_playback.md): the amplitude, the position advance, the boundary and its
policies. -/

namespace Sys2Proof.Machine

/-- `SampleAmp(u, c)` (R304): silence while halted, else the frame at `pos >> FRAC` of data channel `c mod K`. -/
def sampleAmp (s : State) (c : Nat) : Except Fault Int :=
  if s.halted then .ok 0
  else
    readFrame s s.samplePtr s.sampleShape s.sampleIdentity (asr s.pos s.cfg.frac) (c % s.sampleShape.channels)

/-- R306: the position has left `[O, E)`. -/
def outOfRange (s : State) : Bool := decide (rangeHi s ≤ s.pos ∨ s.pos < rangeLo s)

/-- R307: which boundary was crossed. -/
def crossedEdge (s : State) : Edge := if rangeHi s ≤ s.pos then .atEnd else .atStart

/-- The reflection loop of R310, with a bound on its iterations. -/
def reflect (O E : Int) : Nat → Int → Dir → Int × Dir
  | 0, p, d => (p, d)
  | k + 1, p, d =>
    if E ≤ p then reflect O E k (2 * E - 1 - p) d.flip
    else if p < O then reflect O E k (2 * O - 1 - p) d.flip
    else (p, d)

/-- R311: at most `2 * ceil(|overshoot| / (2L)) + 1` iterations, from the distance outside the range. -/
def reflectBound (O E p : Int) : Nat :=
  let dist := if E ≤ p then p - E else O - p
  (2 * ((dist + (2 * (E - O) - 1)) / (2 * (E - O))) + 1).toNat

/-- `ApplyPolicy(u, p)` (R308 to R310). -/
def applyPolicy (p : Policy) (s : State) : State :=
  match p with
  | .none => { s with halted := true }
  | .repeats => { s with pos := rangeLo s + (s.pos - rangeLo s) % (rangeHi s - rangeLo s) }
  | .palindrome =>
    let r := reflect (rangeLo s) (rangeHi s) (reflectBound (rangeLo s) (rangeHi s) s.pos) s.pos s.dir
    { s with pos := r.1, dir := r.2 }

/-- What an advance comes to: it is done, or it waits on the host's answer to a boundary request (R307, R320). -/
inductive Advanced where
  | done (s : State)
  | request (s : State) (e : Edge)

/-- `Boundary(u)` (R307). -/
def boundary (s : State) : Advanced :=
  if s.sampleCallback then .request s (crossedEdge s) else .done (applyPolicy s.sampleRepeat s)

/-- The position after one effective step (R306, R68). -/
def movePos (s : State) : State := { s with pos := s.pos + s.dir.sign * s.samplePeriod }

/-- `SampleAdvance(u)` (R306). -/
def sampleAdvance (s : State) : Advanced :=
  if s.halted then .done s
  else if outOfRange (movePos s) then boundary (movePos s)
  else .done (movePos s)

end Sys2Proof.Machine
end

