-- ==== Sys2Proof/Machine/PhaseAdvance.lean ====
section
/-! DEFINITION. `waveform_phase_advance` (40_phase_advance.md): the amplitude functions and the phase step. -/

namespace Sys2Proof.Machine

/-- `SquareAmp(u)` (R201). -/
def squareAmp (s : State) : Int := if s.phase < s.duty then s.cfg.ampMax else -s.cfg.ampMax

/-- The folded index of R203, for `n` phases. -/
def triangleIndex (n phase : Nat) : Int := if phase < n / 2 then (phase : Int) else (n : Int) - 1 - phase

/-- `TriangleAmp(u)` (R203). -/
def triangleAmp (s : State) : Int :=
  let h : Int := ((s.cfg.nTriangle / 2 : Nat) : Int)
  truncDiv ((2 * triangleIndex s.cfg.nTriangle s.phase - (h - 1)) * s.cfg.ampMax) (h - 1)

/-- `SawtoothAmp(u)` (R204). -/
def sawtoothAmp (s : State) : Int :=
  let n : Int := (s.cfg.nSawtooth : Int)
  truncDiv ((2 * (s.phase : Int) - (n - 1)) * s.cfg.ampMax) (n - 1)

/-- `SineAmp(u)` (R205, R206). -/
def sineAmp (s : State) : Int := s.cfg.sineTable.getD s.phase 0

/-- `NoiseAmp(u)` (R207). -/
def noiseAmp (s : State) : Int := if s.lfsr.testBit 0 then s.cfg.ampMax else -s.cfg.ampMax

/-- `CustomAmp(u)` (R208): channel 0 of the table at the phase. -/
def customAmp (s : State) : Except Fault Int := readFrame s s.wavePtr s.waveShape s.waveIdentity s.phase 0

/-- `Amplitude(u, c)` (R200). -/
def amplitude (s : State) (c : Nat) : Except Fault Int :=
  match s.waveform with
  | .square => .ok (squareAmp s)
  | .triangle => .ok (triangleAmp s)
  | .sawtooth => .ok (sawtoothAmp s)
  | .sine => .ok (sineAmp s)
  | .noise => .ok (noiseAmp s)
  | .custom => customAmp s
  | .sample => sampleAmp s c

/-- The amplitudes of channels `0 .. n-1` (R213 item 1). -/
def amplitudesBelow (s : State) : Nat → Except Fault (List Int)
  | 0 => .ok []
  | n + 1 =>
    match amplitudesBelow s n with
    | .error f => .error f
    | .ok as =>
      match amplitude s n with
      | .error f => .error f
      | .ok a => .ok (as ++ [a])

/-- `LfsrNext(s)` (R210), for a register of `bits` bits. R210 is written for 15: with another width the feedback enters the
top bit of that width (DEDUCED, log 20). -/
def lfsrNext (bits s : Nat) : Nat := (s >>> 1) ||| ((s.testBit 0 ^^ s.testBit 1).toNat <<< (bits - 1))

/-- `Advance(u)` (R212). -/
def advance (s : State) : Advanced :=
  match s.waveform with
  | .sample => sampleAdvance s
  | .noise => .done { s with lfsr := lfsrNext s.cfg.lfsrBits s.lfsr, phase := (s.phase + 1) % phaseCount s }
  | .square | .triangle | .sawtooth | .sine | .custom => .done { s with phase := (s.phase + 1) % phaseCount s }

end Sys2Proof.Machine
end

