-- ==== Sys2Proof/Machine/PulseGeneration.lean ====
section
/-! DEFINITION. `pulse_generator` (41_pulse_generation.md): the step loop, level, delta and emission, and the commands RUN
and END, with BOUNDARY_REPLY, which resumes them (42_sample_playback.md R322). -/

namespace Sys2Proof.Machine

/-! ### Steps -/

/-- What one step comes to. -/
inductive StepTaken where
  | taken (s : State) (r : StepRecord)
  | request (s : State) (cur : StepInProgress)
  | faulted (f : Fault)

/-- The end of a step: it is recorded, and `period` is added to `time` (R251, R258). -/
def addPeriod (s : State) : State := { s with time := s.time + s.period }

/-- One step, in the order of 40_phase_advance.md R213. -/
def takeStep (s : State) : StepTaken :=
  match amplitudesBelow s s.nch with
  | .error f => .faulted f
  | .ok a =>
    match advance s with
    | .done t => .taken (addPeriod t) ⟨s.time, a⟩
    | .request t e => .request t ⟨s.time, a, e⟩

/-- What the step loop comes to. -/
inductive StepsResult where
  | finished (s : State) (steps : List StepRecord)
  | suspended (s : State) (steps : List StepRecord) (cur : StepInProgress)
  | faulted (f : Fault)

/-- `RunSteps(u)` (R251), with a bound on its iterations; `steps` are those already taken. -/
def runSteps (endTime : Nat) : Nat → State → List StepRecord → StepsResult
  | 0, s, steps => .finished s steps
  | k + 1, s, steps =>
    if s.time < endTime then
      match takeStep s with
      | .taken t r => runSteps endTime k t (steps ++ [r])
      | .request t cur => .suspended t steps cur
      | .faulted f => .faulted f
    else .finished s steps

/-- R254: how many steps are due before a time, `ceil((endTime - time) / period)`, 0 when none is. -/
def stepsDue (s : State) (endTime : Nat) : Nat := (endTime - s.time + s.period - 1) / s.period

/-! ### Level, delta, emission -/

/-- `Level(a, c)` (R255). -/
def level (p : Config.Params) (a : Int) (volume : Nat) : Int := asr (a * volume) p.volFrac

/-- The level of a recorded step on channel `c` (R255, R257). -/
def levelOf (s : State) (c : Nat) (r : StepRecord) : Int := level s.cfg (r.amps[c]?.getD 0) (s.volumeAt c)

/-- R257: the kind of the sink transactions. -/
def sinkKind (s : State) : SinkKind :=
  if s.waveform = .sample ∧ s.cfg.sampleSink = .frame then .addFrame else .addPulse

/-- R256, R257: the transactions of one channel, from the level it last emitted. A zero delta is not sent. -/
def channelTxs (s : State) (c : Nat) : List StepRecord → Int → List SinkTx
  | [], _ => []
  | r :: rs, l =>
    (if levelOf s c r - l ≠ 0 then [⟨sinkKind s, c, r.time, levelOf s c r - l⟩] else []) ++
      channelTxs s c rs (levelOf s c r)

/-- R256: the level a channel has emitted last, after the steps. -/
def channelLast (s : State) (c : Nat) : List StepRecord → Int → Int
  | [], l => l
  | r :: rs, _ => channelLast s c rs (levelOf s c r)

/-- One channel's pass of `EmitSteps` (R257). -/
def emitChannel (steps : List StepRecord) (c : Nat) (s : State) : State :=
  (s.setLast c (channelLast s c steps (s.lastAt c))).emit ((channelTxs s c steps (s.lastAt c)).map .sink)

/-- The passes of channels `0 .. n-1`, in that order. -/
def emitBelow (steps : List StepRecord) : Nat → State → State
  | 0, s => s
  | n + 1, s => emitChannel steps n (emitBelow steps n s)

/-- `EmitSteps(u)` (R257): channel-major, each channel in step order. -/
def emitSteps (steps : List StepRecord) (s : State) : State := emitBelow steps s.nch s

/-! ### Running a command to its end or to a boundary request -/

/-- END's shift (R270); RUN has none. -/
def applyShift (kind : SuspKind) (s : State) : State :=
  match kind with
  | .run => s
  | .endChunk shift => { s with time := s.time - shift }

/-- `RunSteps`, then `EmitSteps`, the shift and the response; or the entry into the boundary wait (R250, R270, R320). -/
def continueCommand (kind : SuspKind) (endTime : Nat) (steps : List StepRecord) (s : State) : Result :=
  match runSteps endTime (stepsDue s endTime) s steps with
  | .finished t rs => succeed (applyShift kind (emitSteps rs t))
  | .suspended t rs cur => .next (enterBoundaryWait kind endTime rs cur t)
  | .faulted f => .fault f

/-- R320 item 4: the suspended command goes on with the host's policy. -/
def resume (q : Susp) (p : Policy) (s : State) : Result :=
  continueCommand q.kind q.endTime (q.steps ++ [⟨q.cur.time, q.cur.amps⟩]) (addPeriod (applyPolicy p s))

/-! ### The commands -/

/-- RUN (R250). -/
def execRun (endTime : Nat) (s : State) : Result :=
  if s.pending then fail .invalidState s
  else if s.attached = false then fail .invalidState s
  else if s.cfg.maxEndTime < endTime then fail .invalidValue s
  else continueCommand .run endTime [] s

/-- END (R262, R270). -/
def execEndChunk (t : Nat) (s : State) : Result :=
  if s.pending then fail .invalidState s
  else if s.attached = false then fail .invalidState s
  else if s.cfg.maxEndTime < t then fail .invalidValue s
  else continueCommand (.endChunk (wholeSamples s.cfg t)) t [] s

/-- BOUNDARY_REPLY (R322). Its own response comes first, and a fault of the resumed command carries it (R605; log 8).
`pending` without a suspended command is no state a run reaches (10_state.md R71); it is answered as nothing pending (DESIGN
CHOICE, log 12). -/
def execBoundaryReply (policy : Int) (s : State) : Result :=
  if s.pending = false then fail .invalidState s
  else
    match s.susp, policyOfCode policy with
    | none, _ => fail .invalidState s
    | some _, none => fail .invalidReturnValue s
    | some q, some p => resume q p (leaveBoundaryWait s)

end Sys2Proof.Machine
end

