-- ==== Sys2Proof/Machine/Dispatch.lean ====
section
/-! DEFINITION. What each command does: one arm per constructor of `Instr`, each one call of its meaning. -/

namespace Sys2Proof.Machine

def exec (i : Instr) (s : State) : Host.Outcome State Fault Refusal :=
  match i with
  -- SET_ATTR
  | .setAttrWaveform value => Sys2Proof.Machine.execSetAttrWaveform value s
  | .setAttrDutyCycle value => Sys2Proof.Machine.execSetAttrDutyCycle value s
  | .setAttrPeriod value => Sys2Proof.Machine.execSetAttrPeriod value s
  | .setAttrPhase value => Sys2Proof.Machine.execSetAttrPhase value s
  | .setAttrVolume value => Sys2Proof.Machine.execSetAttrVolume value s
  | .setAttrVolumeN n value => Sys2Proof.Machine.execSetAttrVolumeN n value s
  | .setAttrSampleOffset value => Sys2Proof.Machine.execSetAttrSampleOffset value s
  | .setAttrSampleEnd value => Sys2Proof.Machine.execSetAttrSampleEnd value s
  | .setAttrSamplePeriod value => Sys2Proof.Machine.execSetAttrSamplePeriod value s
  | .setAttrSampleRepeat value => Sys2Proof.Machine.execSetAttrSampleRepeat value s
  | .setAttrSampleCallback value => Sys2Proof.Machine.execSetAttrSampleCallback value s
  -- GET_ATTR
  | .getAttrWaveform => Sys2Proof.Machine.execGetAttrWaveform s
  | .getAttrDutyCycle => Sys2Proof.Machine.execGetAttrDutyCycle s
  | .getAttrPeriod => Sys2Proof.Machine.execGetAttrPeriod s
  | .getAttrPhase => Sys2Proof.Machine.execGetAttrPhase s
  | .getAttrPhaseCount => Sys2Proof.Machine.execGetAttrPhaseCount s
  | .getAttrVolume => Sys2Proof.Machine.execGetAttrVolume s
  | .getAttrStatus => Sys2Proof.Machine.execGetAttrStatus s
  | .getAttrNumChannels => Sys2Proof.Machine.execGetAttrNumChannels s
  | .getAttrVolumeN n => Sys2Proof.Machine.execGetAttrVolumeN n s
  | .getAttrSampleOffset => Sys2Proof.Machine.execGetAttrSampleOffset s
  | .getAttrSampleEnd => Sys2Proof.Machine.execGetAttrSampleEnd s
  | .getAttrSamplePeriod => Sys2Proof.Machine.execGetAttrSamplePeriod s
  | .getAttrSampleRepeat => Sys2Proof.Machine.execGetAttrSampleRepeat s
  | .getAttrSampleCallback => Sys2Proof.Machine.execGetAttrSampleCallback s
  | .getAttrSamplePosition => Sys2Proof.Machine.execGetAttrSamplePosition s
  -- SET_PTR, GET_PTR
  | .setPtrWaveform handle => Sys2Proof.Machine.execSetPtrWaveform handle s
  | .setPtrSample handle => Sys2Proof.Machine.execSetPtrSample handle s
  | .getPtrWaveform => Sys2Proof.Machine.execGetPtrWaveform s
  | .getPtrSample => Sys2Proof.Machine.execGetPtrSample s
  -- RUN, END
  | .run endTime => Sys2Proof.Machine.execRun endTime s
  | .endChunk t => Sys2Proof.Machine.execEndChunk t s
  -- lifecycle
  | .reset => Sys2Proof.Machine.execReset s
  | .attach nch => Sys2Proof.Machine.execAttach nch s
  | .detach => Sys2Proof.Machine.execDetach s
  -- DATA_NOTIFY
  | .dataNotifyReplaced handle => Sys2Proof.Machine.execDataNotifyReplaced handle s
  | .dataNotifyDisposed handle => Sys2Proof.Machine.execDataNotifyDisposed handle s
  -- BOUNDARY_REPLY
  | .boundaryReply policy => Sys2Proof.Machine.execBoundaryReply policy s
  -- reserved operations
  | .reservedOp0 _ _ => Sys2Proof.Machine.execReservedOp0 s
  | .reservedOpcToOpf _ _ _ => Sys2Proof.Machine.execReservedOpcToOpf s

end Sys2Proof.Machine
end

