-- ==== Sys2Proof/Machine/Step.lean ====
section
/-! DEFINITION. One step of the machine: it takes one whole command from the command port and performs it to completion,
or to a boundary request (20_memory.md R120). The oscillator has no program counter (10_state.md R73): its next
command is the one at the front of `cmd`. -/

namespace Sys2Proof.Machine

/-- One step. With no complete command waiting, the oscillator waits and nothing changes (60_exceptions.md R619; log 4).
An illegal encoding is answered as 30_encoding.md R158 says, its words taken all the same (R153). -/
def step (s : State) : Host.Outcome State Fault Refusal :=
  match decode s.cmd with
  | .incomplete => .next s
  | .command i rest => exec i { s with cmd := rest }
  | .illegal why rest => rejectIllegal why { s with cmd := rest }

/-- The command whose bits are `w` arrives at the front of the command port (log 2). -/
def State.withFetchWord (s : State) (nbits w : Nat) : State := { s with cmd := commandWords nbits w ++ s.cmd }

end Sys2Proof.Machine
end

