-- ==== Sys2Proof/Machine/Assembler.lean ====
section
/-! DEFINITION. The textual form of commands (30_encoding.md R161) and the pseudo-instructions (R162): from one line of
text to the command words it stands for. The oscillator never sees text; this is the spec's notation for its input. -/

namespace Sys2Proof.Machine

/-! ### Characters and fields -/

/-- A blank between fields. -/
def isBlank (c : Char) : Bool := c == ' ' || c == '\t'

/-- A field without the blanks around it. -/
def trimBlanks (cs : List Char) : List Char := ((cs.dropWhile isBlank).reverse.dropWhile isBlank).reverse

/-- A line without its comment (`;` starts one). -/
def dropComment (cs : List Char) : List Char := cs.takeWhile (fun c => c != ';')

/-- The fields between commas. -/
def splitCommas : List Char → List Char → List (List Char)
  | acc, [] => [trimBlanks acc.reverse]
  | acc, c :: cs => if c = ',' then trimBlanks acc.reverse :: splitCommas [] cs else splitCommas (c :: acc) cs

/-! ### Numbers -/

/-- The value of a digit below 16. -/
def digitValue (c : Char) : Option Nat :=
  let n := c.toNat
  if 48 ≤ n ∧ n ≤ 57 then some (n - 48)
  else if 97 ≤ n ∧ n ≤ 102 then some (n - 87)
  else if 65 ≤ n ∧ n ≤ 70 then some (n - 55)
  else none

/-- Digits in a base, on from a value. -/
def digitsFrom (base : Nat) : Nat → List Char → Option Nat
  | acc, [] => some acc
  | acc, c :: cs =>
    match digitValue c with
    | some d => if d < base then digitsFrom base (acc * base + d) cs else none
    | none => none

/-- At least one decimal digit. -/
def parseDecimal (cs : List Char) : Option Nat := if cs.isEmpty then none else digitsFrom 10 0 cs

/-- Decimal, or hexadecimal after `0x`. -/
def parseNat : List Char → Option Nat
  | '0' :: 'x' :: c :: cs => digitsFrom 16 0 (c :: cs)
  | cs => parseDecimal cs

/-- A number that may be negative. -/
def parseSigned : List Char → Option Int
  | '-' :: cs => (parseNat cs).map fun n => -(n : Int)
  | cs => (parseNat cs).map fun n => (n : Int)

/-- The number a name stands for. -/
def lookupName (table : List (String × Nat)) (cs : List Char) : Option Nat :=
  (table.find? fun e => e.1.toList == cs).map fun e => e.2

/-- The names `<int>` may also be: the waveforms of 10_state.md R52 and the policies of R65. -/
def valueNames : List (String × Nat) :=
  [("CUSTOM", 0), ("SQUARE", 1), ("TRIANGLE", 2), ("NOISE", 3), ("SAWTOOTH", 4), ("SINE", 5), ("SAMPLE", 6)] ++
  [("NONE", 0), ("REPEAT", 1), ("PALINDROME", 2)]

/-- The key names of R154. -/
def keyNames : List (String × Nat) :=
  [("WAVEFORM", 0x01), ("DUTY_CYCLE", 0x02), ("PERIOD", 0x03), ("PHASE", 0x04), ("PHASE_COUNT", 0x05)] ++
  [("VOLUME", 0x06), ("STATUS", 0x07), ("NUM_CHANNELS", 0x08)] ++
  [("VOLUME_0", 0x10), ("VOLUME_1", 0x11), ("VOLUME_2", 0x12), ("VOLUME_3", 0x13)] ++
  [("VOLUME_4", 0x14), ("VOLUME_5", 0x15), ("VOLUME_6", 0x16), ("VOLUME_7", 0x17)] ++
  [("SAMPLE_OFFSET", 0x20), ("SAMPLE_END", 0x21), ("SAMPLE_PERIOD", 0x22), ("SAMPLE_REPEAT", 0x23)] ++
  [("SAMPLE_CALLBACK", 0x24), ("SAMPLE_POSITION", 0x25)]

/-- The pointer keys of R155. -/
def pointerNames : List (String × Nat) := [("WAVEFORM", 0x01), ("SAMPLE", 0x02)]

/-- The notification kinds of R155. -/
def notifyNames : List (String × Nat) := [("REPLACED", 0x01), ("DISPOSED", 0x02)]

/-- `<int>`, as the operand word. A value from 2^31 to 2^32-1 stands for its word, as 95_test_vectors.md V60
writes it (DEDUCED, log 19). -/
def parseIntWord (cs : List Char) : Option Word :=
  match (lookupName valueNames cs).map (fun n => (n : Int)) <|> parseSigned cs with
  | some v => if -2 ^ 31 ≤ v ∧ v < 2 ^ 32 then some (BitVec.ofInt 32 v) else none
  | none => none

/-- `<handle>`, as the operand word. -/
def parseHandleWord (cs : List Char) : Option Word :=
  match parseNat cs with
  | some v => if v < 2 ^ 32 then some (BitVec.ofNat 32 v) else none
  | none => none

/-- `<key>`: a name, or a number of 8 bits. -/
def parseKey (cs : List Char) : Option Nat :=
  match lookupName keyNames cs <|> parseNat cs with
  | some k => if k < 2 ^ 8 then some k else none
  | none => none

/-- A decimal number of samples, exactly representable in FRAC fractional bits. -/
def parseSamples (p : Config.Params) (cs : List Char) : Option Nat :=
  match parseDecimal (cs.takeWhile fun c => c != '.') with
  | none => none
  | some whole =>
    match cs.dropWhile fun c => c != '.' with
    | [] => some (whole * 2 ^ p.frac)
    | _ :: ds =>
      match parseDecimal ds with
      | none => none
      | some f =>
        let num := f * 2 ^ p.frac
        let den := 10 ^ ds.length
        if num % den = 0 then some (whole * 2 ^ p.frac + num / den) else none

/-- `<time>`: time units, or samples with the suffix `s`. -/
def parseTime (p : Config.Params) (cs : List Char) : Option Nat :=
  match cs.reverse with
  | 's' :: ds => parseSamples p ds.reverse
  | _ => parseNat cs

/-- The two words of a `<time>`, low word first (R156). -/
def parseTimeWords (p : Config.Params) (cs : List Char) : Option (List Word) :=
  match parseTime p cs with
  | some t => if t < 2 ^ 64 then some (wordsOfTime t) else none
  | none => none

/-! ### Commands -/

/-- `SET <key>, <int>` with the key given. -/
def assembleSet (key : Nat) (v : List Char) : Option (List Word) :=
  (parseIntWord v).map fun w => [mkHeader 0x1 key 0, w]

/-- `SETP <key>, <handle>` with the key given. -/
def assembleSetPtr (key : Nat) (h : List Char) : Option (List Word) :=
  (parseHandleWord h).map fun w => [mkHeader 0x3 key 0, w]

/-- `RUN <time>` or `END <time>`, by operation. -/
def assembleTime (p : Config.Params) (op : Nat) (t : List Char) : Option (List Word) :=
  (parseTimeWords p t).map fun ws => mkHeader op 0 0 :: ws

/-- Two lines' words, one after the other. -/
def bothWords (a b : Option (List Word)) : Option (List Word) :=
  match a, b with
  | some x, some y => some (x ++ y)
  | _, _ => none

/-- A mnemonic with its operands: the table of R161, then the expansions of R162. -/
def assembleFields (p : Config.Params) (m : String) (ops : List (List Char)) : Option (List Word) :=
  match m, ops with
  | "SET", [k, v] => (parseKey k).bind fun key => assembleSet key v
  | "GET", [k] => (parseKey k).map fun key => [mkHeader 0x2 key 0]
  | "SETP", [k, h] => (lookupName pointerNames k).bind fun key => assembleSetPtr key h
  | "GETP", [k] => (lookupName pointerNames k).map fun key => [mkHeader 0x4 key 0]
  | "RUN", [t] => assembleTime p 0x5 t
  | "END", [t] => assembleTime p 0x6 t
  | "RESET", [] => some [mkHeader 0x7 0 0]
  | "ATTACH", [n] => (parseIntWord n).map fun w => [mkHeader 0x8 0 0, w]
  | "DETACH", [] => some [mkHeader 0x9 0 0]
  | "NOTIFY", [k, h] =>
    (lookupName notifyNames k).bind fun key => (parseHandleWord h).map fun w => [mkHeader 0xA key 0, w]
  | "REPLY", [v] => (parseIntWord v).map fun w => [mkHeader 0xB 0 0, w]
  | "CHUNK", [t] => bothWords (assembleTime p 0x5 t) (assembleTime p 0x6 t)
  | "MUTE", [] => assembleSet 0x06 ['0']
  | "RETRIGGER", [] => assembleSet 0x04 ['0']
  | "WAVE", [h] => assembleSetPtr 0x01 h
  | "SAMPLE", [h] => assembleSetPtr 0x02 h
  | "PAN", [l, r] => bothWords (assembleSet 0x10 l) (assembleSet 0x11 r)
  | _, _ => none

/-- One line of text: its command words, none where the text is no command; a blank line stands for no words. -/
def assembleLine (p : Config.Params) (line : String) : Option (List Word) :=
  let cs := trimBlanks (dropComment line.toList)
  let m := cs.takeWhile fun c => !isBlank c
  let rest := trimBlanks (cs.dropWhile fun c => !isBlank c)
  if cs.isEmpty then some []
  else assembleFields p (String.ofList m) (if rest.isEmpty then [] else splitCommas [] rest)

/-- Several lines: the command words in order. -/
def assembleLines (p : Config.Params) : List String → Option (List Word)
  | [] => some []
  | l :: ls => bothWords (assembleLine p l) (assembleLines p ls)

end Sys2Proof.Machine
end

