-- ==== Sys2Proof/Machine/Environment.lean ====
section
/-! DEFINITION. What the host can do to the machine between commands (20_memory.md R106, 30_encoding.md R150): send command
words, take what stands on the output ports, and provide, rewrite or dispose Data objects. None of these is a step of the
oscillator (log 6). With them, the contract of the data-memory port (R101). -/

namespace Sys2Proof.Machine

/-! ### The contract of the data-memory port -/

/-- R101, R102, R103: an unsigned 32-bit frame count, at least one channel, and bytes inside the object. -/
abbrev DataObject.wf (o : DataObject) : Prop :=
  o.frames < 2 ^ 32 ∧ 1 ≤ o.channels ∧ Memory.wf o.bytes ∧ ∀ b ∈ o.bytes, b.1 < 2 * (o.frames * o.channels)

/-- R100, R101: live handles are unsigned 32 and not 0, each named once, and their objects keep the contract. -/
abbrev dataWf (d : List DataEntry) : Prop :=
  d.Pairwise (fun x y => x.handle < y.handle) ∧ ∀ e ∈ d, (0 < e.handle ∧ e.handle < 2 ^ 32) ∧ e.object.wf

/-! ### Data objects -/

/-- Store one frame (R103: the low byte at the lower address). -/
def writeObjectFrame (o : DataObject) (i k : Nat) (v : Int) : DataObject :=
  let w : BitVec 16 := BitVec.ofInt 16 v
  let at0 := frameOffset o.channels i k
  { o with bytes := writeByte (writeByte o.bytes at0 (w.extractLsb' 0 8)) (at0 + 1) (w.extractLsb' 8 8) }

/-- Store the channels of frame `i`, from channel `k` on. -/
def writeObjectChannels (o : DataObject) (i : Nat) : Nat → List Int → DataObject
  | _, [] => o
  | k, v :: vs => writeObjectChannels (writeObjectFrame o i k v) i (k + 1) vs

/-- Store frames from frame `i` on, each a list of its channels' values. -/
def writeObjectFrames (o : DataObject) : Nat → List (List Int) → DataObject
  | _, [] => o
  | i, f :: fs => writeObjectFrames (writeObjectChannels o i 0 f) (i + 1) fs

/-- The Data object with these frames of `K` channels each. -/
def objectOf (K : Nat) (frames : List (List Int)) : DataObject :=
  writeObjectFrames ⟨frames.length, K, []⟩ 0 frames

/-- The object list with `h` naming `o`, handles rising. -/
def insertObject : List DataEntry → Nat → DataObject → List DataEntry
  | [], h, o => [⟨h, o⟩]
  | e :: d, h, o =>
    if h < e.handle then ⟨h, o⟩ :: e :: d
    else if h = e.handle then ⟨h, o⟩ :: d
    else e :: insertObject d h o

/-- The object list with `h` naming nothing. -/
def removeObject (d : List DataEntry) (h : Nat) : List DataEntry := d.filter fun e => decide (e.handle ≠ h)

/-! ### The host's actions -/

/-- The host sends command words (R150). -/
def State.send (s : State) (ws : List Word) : State := { s with cmd := s.cmd ++ ws }

/-- The host takes everything that stands on the output ports. -/
def State.takeOutput (s : State) : State := { s with out := [] }

/-- What becomes of the object validated for a handle when the host puts another behind it, `now` being the one there before:
it stays as it is, out of reach of the handle (R125); one disposed before does not come back (R605; log 22). -/
def Identity.provided (id : Identity) (now : Option DataObject) : Identity :=
  match id, now with
  | .same, some o => .replaced o
  | .same, none => .disposed
  | .replaced o, _ => .replaced o
  | .disposed, _ => .disposed

/-- The host provides a Data object, or replaces one; a held handle then needs DATA_NOTIFY REPLACED (R106). -/
def State.provideObject (s : State) (h : Nat) (o : DataObject) : State :=
  { s with
    data := insertObject s.data h o
    waveIdentity := if s.wavePtr = h then s.waveIdentity.provided (findObject s.data h) else s.waveIdentity
    sampleIdentity := if s.samplePtr = h then s.sampleIdentity.provided (findObject s.data h) else s.sampleIdentity }

/-- The host disposes a Data object; a held handle then needs DATA_NOTIFY DISPOSED (R106). -/
def State.disposeObject (s : State) (h : Nat) : State :=
  { s with
    data := removeObject s.data h
    waveIdentity := if s.wavePtr = h then .disposed else s.waveIdentity
    sampleIdentity := if s.samplePtr = h then .disposed else s.sampleIdentity }

/-- The host changes one frame value of a live object, which stays the object it is; no notification is needed (R106,
R125). -/
def State.changeFrame (s : State) (h i k : Nat) (v : Int) : State :=
  match findObject s.data h with
  | none => s
  | some o => { s with data := insertObject s.data h (writeObjectFrame o i k v) }

end Sys2Proof.Machine
end

