-- ==== Sys2Proof/Machine/Sink.lean ====
section
/-! DEFINITION. The sink port's contract (20_memory.md R110 to R113), as the environment the oscillator relies on: what the
cells of a channel's buffer hold is a function of the transactions sent (10_state.md R74), from a zeroed start
(70_reset_and_hazards.md R702). The kernel is OPEN (D52; log 15). -/

namespace Sys2Proof.Machine

/-- The sink transactions among what stands on the output ports, in the order issued. -/
def sinkTxs : List PortEvent → List SinkTx
  | [] => []
  | .sink tx :: es => tx :: sinkTxs es
  | .response _ _ :: es => sinkTxs es
  | .boundaryRequest _ _ :: es => sinkTxs es

/-- R112 `ph`: the kernel phase of a time. -/
def kernelPhase (p : Config.Params) (t : Nat) : Nat := (t % p.one * Config.stepUnit) / 2 ^ p.frac

/-- What one transaction adds to cell `n` of channel `c` (R112, R113). -/
def cellAddend (p : Config.Params) (tx : SinkTx) (c n : Nat) : Int :=
  let off := tx.time / 2 ^ p.frac
  if tx.channel ≠ c then 0
  else
    match tx.kind with
    | .addFrame => if n = off then tx.delta else 0
    | .addPulse =>
      if off ≤ n ∧ n - off < Config.stepWidth then
        Config.kmul (Config.kernel (kernelPhase p tx.time) (n - off)) tx.delta
      else 0

/-- Cell `n` of channel `c` after the transactions (R111): both operations add. -/
def sinkCell (p : Config.Params) (txs : List SinkTx) (c n : Nat) : Int := (txs.map fun tx => cellAddend p tx c n).sum

/-- The sum of the deltas sent on channel `c` (41_pulse_generation.md R261). -/
def deltaSum (c : Nat) : List SinkTx → Int
  | [] => 0
  | tx :: txs => (if tx.channel = c then tx.delta else 0) + deltaSum c txs

/-- The transactions of one channel, in the order issued. -/
def channelOnly (c : Nat) (txs : List SinkTx) : List SinkTx := txs.filter fun tx => decide (tx.channel = c)

end Sys2Proof.Machine
end

