-- ==== Sys2Proof/Safety.lean ====
section
/-! DEFINITION. What counts as a legal state (10_state.md R50 ranges and R75 invariants), the host's duty toward held Data
objects (20_memory.md R106), and the terms the statements use. -/

namespace Sys2Proof.Machine

/-- A value of a data frame or an amplitude: `FRAME_MIN .. FRAME_MAX` (20_memory.md R102, 40_phase_advance.md R200). -/
abbrev FrameValue (p : Config.Params) (a : Int) : Prop := p.frameMin ≤ a ∧ a ≤ p.frameMax

/-- A value of a level (41_pulse_generation.md R255): from a frame value at full volume. -/
abbrev LevelValue (p : Config.Params) (l : Int) : Prop := p.levelMin ≤ l ∧ l ≤ p.levelMax

/-- The configuration is one a machine can be built with (00_scope.md R7, R8), with a volume and a last-level register for
each of its channels. -/
abbrev State.ConfigInv (s : State) : Prop :=
  s.cfg.WellFormed ∧ s.volume.length = s.cfg.maxChannels ∧ s.last.length = s.cfg.maxChannels

/-- R75 item 3 and R50: `nch` is 0 exactly while detached, and at most MAX_CHANNELS. -/
abbrev State.LifecycleInv (s : State) : Prop :=
  (s.attached = false ↔ s.nch = 0) ∧ s.nch ≤ s.cfg.maxChannels

/-- R75 items 1 and 2 for the waveform registers (R54, R55, R56, R57, R60). -/
abbrev State.WaveInv (s : State) : Prop :=
  s.phase < phaseCount s ∧
  (1 ≤ s.duty ∧ s.duty ≤ s.cfg.nSquare - 1) ∧
  (s.cfg.periodMin ≤ s.period ∧ s.period ≤ s.cfg.periodMax) ∧
  (∀ c < s.cfg.maxChannels, s.volumeAt c ≤ s.cfg.volMax) ∧
  (s.lfsr ≠ 0 ∧ s.lfsr < 2 ^ s.cfg.lfsrBits)

/-- The bound of R73 on `time`, and levels of R255 in `last[c]` (inside the signed 32 bits of R59). -/
abbrev State.TimeInv (s : State) : Prop :=
  s.time < s.cfg.maxEndTime + s.cfg.periodMax ∧
  ∀ c < s.cfg.maxChannels, LevelValue s.cfg (s.lastAt c)

/-- R75 items 1, 4 and 5 for the handles, the range and `samplePeriod` (R53, R61 to R64), by the validated shapes. -/
abbrev State.PointerInv (s : State) : Prop :=
  (s.wavePtr < 2 ^ 32 ∧ s.samplePtr < 2 ^ 32) ∧
  (s.waveform = .custom → s.wavePtr ≠ 0) ∧
  (s.waveform = .sample → s.samplePtr ≠ 0) ∧
  (s.wavePtr ≠ 0 → s.cfg.customMin ≤ s.waveShape.frames ∧ s.waveShape.frames ≤ s.cfg.customMax) ∧
  (s.samplePtr ≠ 0 → 1 ≤ s.sampleShape.frames ∧ s.sampleShape.frames ≤ s.cfg.maxFrames) ∧
  (s.samplePtr = 0 → s.sampleShape.frames = 0 ∧ s.pos = 0) ∧
  (s.sampleOffset ≤ s.sampleShape.frames ∧ s.sampleEnd ≤ s.sampleShape.frames) ∧
  (-Config.samplePeriodMax ≤ s.samplePeriod ∧ s.samplePeriod ≤ Config.samplePeriodMax)

/-- The bounds of 46_data_pointers.md R501 on `pos`, and R75 item 6, which a pending boundary request suspends: the
position that crossed stands until the host's policy is applied (60_exceptions.md R607). -/
abbrev State.PositionInv (s : State) : Prop :=
  (-Config.samplePeriodMax ≤ s.pos ∧ s.pos < fixedOf s.cfg s.cfg.maxFrames + Config.samplePeriodMax) ∧
  (s.waveform = .sample → s.halted = false → s.pending = false → rangeLo s ≤ s.pos ∧ s.pos < rangeHi s)

/-- A recorded step of a command with target `endTime` on `n` channels (41_pulse_generation.md R251). -/
abbrev StepRecord.legal (p : Config.Params) (n endTime : Nat) (r : StepRecord) : Prop :=
  r.time < endTime ∧ r.amps.length = n ∧ ∀ a ∈ r.amps, FrameValue p a

/-- The suspended command of R71, R320: the step in progress stands at `time`, the steps before it in order. -/
abbrev Susp.legal (s : State) (q : Susp) : Prop :=
  q.endTime ≤ s.cfg.maxEndTime ∧
  (q.kind = .run ∨ q.kind = .endChunk (wholeSamples s.cfg q.endTime)) ∧
  (q.cur.time = s.time ∧ s.time < q.endTime) ∧
  (q.cur.amps.length = s.nch ∧ ∀ a ∈ q.cur.amps, FrameValue s.cfg a) ∧
  q.cur.edge = crossedEdge s ∧
  (∀ r ∈ q.steps, StepRecord.legal s.cfg s.nch q.endTime r ∧ r.time < s.time) ∧
  q.steps.Pairwise (fun x y => x.time < y.time)

/-- R75 item 7 and 43_lifecycle.md R355: `pending` stands exactly while a command is suspended, and only in attached
sample playback with the callback on, at a position outside a range that is not empty (60_exceptions.md R606). -/
abbrev State.PendingInv (s : State) : Prop :=
  (s.pending = true ↔ s.susp.isSome = true) ∧
  (s.pending = true →
    s.attached = true ∧ s.waveform = .sample ∧ s.halted = false ∧ s.sampleCallback = true ∧
      s.sampleOffset < s.sampleEnd ∧ outOfRange s = true) ∧
  ∀ q ∈ s.susp, Susp.legal s q

/-- An object whose frames all lie in `FRAME_MIN .. FRAME_MAX` (R102). -/
abbrev DataObject.FramesIn (p : Config.Params) (o : DataObject) : Prop :=
  ∀ i < o.frames, ∀ k < o.channels, FrameValue p (objectFrame o i k)

/-- The contract of the data-memory port: live handles and objects (R101), and frames in `FRAME_MIN .. FRAME_MAX` (R102),
which with the default range every 16-bit frame is; and the same of a former object, which has the shape validated. -/
abbrev State.DataInv (s : State) : Prop :=
  dataWf s.data ∧ (∀ h i k v, dataFrame s h i k = some v → FrameValue s.cfg v) ∧
  (∀ o ∈ s.waveIdentity.former, o.shape = s.waveShape ∧ o.FramesIn s.cfg) ∧
  ∀ o ∈ s.sampleIdentity.former, o.shape = s.sampleShape ∧ o.FramesIn s.cfg

/-- The invariant of R75 with the ranges of R50, for a well-formed configuration (R8) and a data-memory port that keeps its
contract (R101, R102). -/
abbrev State.Inv (s : State) : Prop :=
  s.ConfigInv ∧ s.LifecycleInv ∧ s.WaveInv ∧ s.TimeInv ∧ s.PointerInv ∧ s.PositionInv ∧ s.PendingInv ∧ s.DataInv

/-- The host keeps its duty of R106: what the port answers for each held handle has the counts the oscillator validated, and the
object validated is not disposed. -/
abbrev State.HostDuty (s : State) : Prop :=
  (s.wavePtr ≠ 0 → dataShape s s.wavePtr = some s.waveShape ∧ s.waveIdentity ≠ .disposed) ∧
  (s.samplePtr ≠ 0 → dataShape s s.samplePtr = some s.sampleShape ∧ s.sampleIdentity ≠ .disposed)

/-- What RUN, END and BOUNDARY_REPLY never write: the configuration, attachment, the attributes, the handles with their
shapes and identities, the data memory, and the words still waiting on the command port (45_attribute_read.md R466, 20_memory.md R105). -/
structure SameAttributes (s t : State) : Prop where
  cfg : t.cfg = s.cfg
  attached : t.attached = s.attached
  nch : t.nch = s.nch
  waveform : t.waveform = s.waveform
  duty : t.duty = s.duty
  period : t.period = s.period
  volume : t.volume = s.volume
  wavePtr : t.wavePtr = s.wavePtr
  samplePtr : t.samplePtr = s.samplePtr
  sampleOffset : t.sampleOffset = s.sampleOffset
  sampleEnd : t.sampleEnd = s.sampleEnd
  samplePeriod : t.samplePeriod = s.samplePeriod
  sampleRepeat : t.sampleRepeat = s.sampleRepeat
  sampleCallback : t.sampleCallback = s.sampleCallback
  waveShape : t.waveShape = s.waveShape
  sampleShape : t.sampleShape = s.sampleShape
  waveIdentity : t.waveIdentity = s.waveIdentity
  sampleIdentity : t.sampleIdentity = s.sampleIdentity
  data : t.data = s.data
  cmd : t.cmd = s.cmd

/-- What the step loop itself never writes besides: the emitted levels, the boundary wait and the output ports, which
change only after the last step (41_pulse_generation.md R257). -/
structure SamePorts (s t : State) : Prop where
  last : t.last = s.last
  pending : t.pending = s.pending
  susp : t.susp = s.susp
  out : t.out = s.out

/-! ### The course of a run that no request interrupts -/

/-- The state one step later (40_phase_advance.md R213, 41_pulse_generation.md R251). -/
def advanced (s : State) : State :=
  match advance s with
  | .done t => addPeriod t
  | .request t _ => addPeriod t

/-- The state `j` steps later. -/
def stepState : Nat → State → State
  | 0, s => s
  | j + 1, s => stepState j (advanced s)

/-- The kind of the sink transactions (R257): AddFrame in sample mode, unless the configuration chooses AddPulse there too
(42_sample_playback.md R313). -/
def State.txKind (s : State) : SinkKind :=
  match s.waveform, s.cfg.sampleSink with
  | .sample, .frame => .addFrame
  | _, _ => .addPulse

/-- The level of the `j`-th step from now on channel `c` (R255): `floor(amplitude * volume / 2^VOL_FRAC)`. -/
def levelAt (s : State) (c j : Nat) : Int :=
  match amplitude (stepState j s) c with
  | .ok a => a * s.volumeAt c / 2 ^ s.cfg.volFrac
  | .error _ => 0

/-- The level before the `j`-th step: the one emitted last, or the step's before it (R256). -/
def levelBefore (s : State) (c : Nat) : Nat → Int
  | 0 => s.lastAt c
  | j + 1 => levelAt s c j

/-- The transactions of channel `c` in `k` steps from now: one per change of level, at the step's time (R256, R257). -/
def levelChanges (s : State) (c k : Nat) : List SinkTx :=
  (List.range k).filterMap fun j =>
    if levelAt s c j = levelBefore s c j then none
    else some ⟨s.txKind, c, s.time + j * s.period, levelAt s c j - levelBefore s c j⟩

/-- None of the next `k` steps raises a boundary request (60_exceptions.md R606, *Source*). -/
def State.NoRequestBefore (s : State) (k : Nat) : Prop :=
  ∀ j < k, ∀ t e, advance (stepState j s) ≠ .request t e

/-- The closing delta of every channel that stands at a level other than 0, at the next step's time (42_sample_playback.md
R305, 41_pulse_generation.md R261). -/
def closingTxs (s : State) : List SinkTx :=
  (List.range s.nch).filterMap fun c =>
    if s.lastAt c = 0 then none else some ⟨s.txKind, c, s.time, -s.lastAt c⟩

/-! ### A suspended command taken up again -/

/-- The record of the `j`-th step from now (R251): its time, and its amplitude on each channel. -/
def recordAt (s : State) (j : Nat) : StepRecord :=
  ⟨s.time + j * s.period, (List.range s.nch).map fun c =>
    match amplitude (stepState j s) c with
    | .ok a => a
    | .error _ => 0⟩

/-- The records of the next `k` steps, in order. -/
def recordsBefore (s : State) (k : Nat) : List StepRecord := (List.range k).map (recordAt s)

/-- The level of the `j`-th recorded step on channel `c` (R255, R257). -/
def recordLevel (s : State) (c : Nat) (rs : List StepRecord) (j : Nat) : Int :=
  (rs[j]?.getD ⟨0, []⟩).amps.getD c 0 * s.volumeAt c / 2 ^ s.cfg.volFrac

/-- The level before it: the one emitted last, or the recorded step's before it (R256). -/
def recordBefore (s : State) (c : Nat) (rs : List StepRecord) : Nat → Int
  | 0 => s.lastAt c
  | j + 1 => recordLevel s c rs j

/-- The transactions of channel `c` for recorded steps: one per change of level, at the step's time (R256, R257). -/
def recordChanges (s : State) (c : Nat) (rs : List StepRecord) : List SinkTx :=
  (List.range rs.length).filterMap fun j =>
    if recordLevel s c rs j = recordBefore s c rs j then none
    else
      some ⟨s.txKind, c, (rs[j]?.getD ⟨0, []⟩).time, recordLevel s c rs j - recordBefore s c rs j⟩

/-- END's shift, which RUN does not have (R270, 10_state.md R71). -/
def SuspKind.shift : SuspKind → Nat
  | .run => 0
  | .endChunk w => w

/-- The host answers `n` boundary requests, each with the policy `p` (42_sample_playback.md R321). -/
def answered (p : Policy) : Nat → State → Result
  | 0, s => .next s
  | n + 1, s =>
    match exec (.boundaryReply p.code) s with
    | .next t => answered p n t
    | .fault f => .fault f
    | .refused r => .refused r

/-! ### Readings -/

/-- One transaction, `shift` later. -/
def SinkTx.later (shift : Nat) (tx : SinkTx) : SinkTx := { tx with time := tx.time + shift }

/-- One byte of the Data object a handle names (20_memory.md R103); none where the handle names none. -/
def State.dataByte (s : State) (h a : Nat) : Option (BitVec 8) := (findObject s.data h).map fun o => readByte o.bytes a

/-- A SET that succeeds is read back by the GET of its key as `want` says of the state after the SET
(45_attribute_read.md R466). -/
def readsBack (set get : Instr) (s : State) (want : State → Int) : Prop :=
  ∀ t, exec set s = .next t → t.out = s.out ++ [.response 0 none] →
    ∃ w, exec get t = .next (t.respondValue .ok w) ∧ w.toInt = want t

/-! ### What a command may write, and what it may answer -/

/-- The fields of the machine but for the output ports: those of 10_state.md R50, the configuration, the validated shapes
and identities (60_exceptions.md R605, 20_memory.md R125), the data memory and the command port. -/
inductive StateField where
  | attached
  | nch
  | waveform
  | phase
  | duty
  | period
  | volume
  | time
  | last
  | lfsr
  | wavePtr
  | samplePtr
  | sampleOffset
  | sampleEnd
  | samplePeriod
  | sampleRepeat
  | sampleCallback
  | pos
  | dir
  | halted
  | pending
  | susp
  | cfg
  | waveShape
  | sampleShape
  | waveIdentity
  | sampleIdentity
  | data
  | cmd
  deriving DecidableEq, Repr

/-- Two states agree on a field. -/
def StateField.same (s t : State) : StateField → Prop
  | .attached => t.attached = s.attached
  | .nch => t.nch = s.nch
  | .waveform => t.waveform = s.waveform
  | .phase => t.phase = s.phase
  | .duty => t.duty = s.duty
  | .period => t.period = s.period
  | .volume => t.volume = s.volume
  | .time => t.time = s.time
  | .last => t.last = s.last
  | .lfsr => t.lfsr = s.lfsr
  | .wavePtr => t.wavePtr = s.wavePtr
  | .samplePtr => t.samplePtr = s.samplePtr
  | .sampleOffset => t.sampleOffset = s.sampleOffset
  | .sampleEnd => t.sampleEnd = s.sampleEnd
  | .samplePeriod => t.samplePeriod = s.samplePeriod
  | .sampleRepeat => t.sampleRepeat = s.sampleRepeat
  | .sampleCallback => t.sampleCallback = s.sampleCallback
  | .pos => t.pos = s.pos
  | .dir => t.dir = s.dir
  | .halted => t.halted = s.halted
  | .pending => t.pending = s.pending
  | .susp => t.susp = s.susp
  | .cfg => t.cfg = s.cfg
  | .waveShape => t.waveShape = s.waveShape
  | .sampleShape => t.sampleShape = s.sampleShape
  | .waveIdentity => t.waveIdentity = s.waveIdentity
  | .sampleIdentity => t.sampleIdentity = s.sampleIdentity
  | .data => t.data = s.data
  | .cmd => t.cmd = s.cmd

/-- What steps write (R50, the entries "steps", "sample steps" and "noise steps"), with the wait of R71. -/
def stepFields : List StateField := [.phase, .time, .last, .lfsr, .pos, .dir, .halted, .pending, .susp]

/-- What ClearTime writes (43_lifecycle.md R357). -/
def clearFields : List StateField := [.phase, .time, .last, .lfsr, .pos, .dir, .halted]

/-- What DATA_NOTIFY writes (R50; 46_data_pointers.md R505 to R508). -/
def notifyFields : List StateField :=
  [.waveform, .phase, .wavePtr, .samplePtr, .sampleOffset, .sampleEnd, .pos, .dir, .halted, .waveShape, .sampleShape,
    .waveIdentity, .sampleIdentity]

/-- 10_state.md R50, the column *written by*, read by command: the fields each command may write. -/
def writes : Instr → List StateField
  | .setAttrWaveform _ => [.waveform, .phase]
  | .setAttrDutyCycle _ => [.duty]
  | .setAttrPeriod _ => [.period]
  | .setAttrPhase _ => [.phase, .pos, .dir, .halted]
  | .setAttrVolume _ | .setAttrVolumeN _ _ => [.volume]
  | .setAttrSampleOffset _ => [.sampleOffset, .pos, .dir, .halted]
  | .setAttrSampleEnd _ => [.sampleEnd, .pos, .dir, .halted]
  | .setAttrSamplePeriod _ => [.samplePeriod]
  | .setAttrSampleRepeat _ => [.sampleRepeat]
  | .setAttrSampleCallback _ => [.sampleCallback]
  | .getAttrWaveform | .getAttrDutyCycle | .getAttrPeriod | .getAttrPhase | .getAttrPhaseCount | .getAttrVolume => []
  | .getAttrStatus | .getAttrNumChannels | .getAttrVolumeN _ | .getAttrSampleOffset | .getAttrSampleEnd => []
  | .getAttrSamplePeriod | .getAttrSampleRepeat | .getAttrSampleCallback | .getAttrSamplePosition => []
  | .getPtrWaveform | .getPtrSample => []
  | .setPtrWaveform _ => [.waveform, .phase, .wavePtr, .waveShape, .waveIdentity]
  | .setPtrSample _ =>
    [.waveform, .phase, .samplePtr, .sampleOffset, .sampleEnd, .pos, .dir, .halted, .sampleShape, .sampleIdentity]
  | .run _ | .endChunk _ | .boundaryReply _ => stepFields
  | .reset => clearFields
  | .attach _ | .detach => .attached :: .nch :: clearFields
  | .dataNotifyReplaced _ | .dataNotifyDisposed _ => notifyFields
  | .reservedOp0 _ _ | .reservedOpcToOpf _ _ _ => []

/-- 60_exceptions.md R602, the column *codes besides 0*, for the commands that are no illegal encoding. -/
def failures : Instr → List Status
  | .setAttrWaveform _ | .setAttrSampleRepeat _ => [.invalidState, .invalidValue]
  | .setAttrDutyCycle _ | .setAttrPeriod _ | .setAttrPhase _ | .setAttrVolume _ => [.invalidState]
  | .setAttrVolumeN _ _ => [.invalidState, .invalidAttribute]
  | .setAttrSampleOffset _ | .setAttrSampleEnd _ | .setAttrSamplePeriod _ | .setAttrSampleCallback _ => [.invalidState]
  | .getAttrWaveform | .getAttrDutyCycle | .getAttrPeriod | .getAttrPhase | .getAttrPhaseCount | .getAttrVolume => []
  | .getAttrStatus | .getAttrNumChannels | .getAttrSampleOffset | .getAttrSampleEnd => []
  | .getAttrSamplePeriod | .getAttrSampleRepeat | .getAttrSampleCallback | .getAttrSamplePosition => []
  | .getAttrVolumeN _ => [.invalidAttribute]
  | .getPtrWaveform | .getPtrSample => []
  | .setPtrWaveform _ | .setPtrSample _ => [.invalidState, .invalidValue, .invalidNumFrames]
  | .run _ | .endChunk _ => [.invalidState, .invalidValue]
  | .reset => [.invalidState]
  | .attach _ => [.invalidState, .invalidNumChannels]
  | .detach => [.invalidState]
  | .dataNotifyReplaced _ | .dataNotifyDisposed _ => [.invalidState, .invalidValue]
  | .boundaryReply _ => [.invalidState, .invalidReturnValue]
  | .reservedOp0 _ _ | .reservedOpcToOpf _ _ _ => [.invalidState]

/-- The commands a pending oscillator performs (60_exceptions.md R612). -/
def performedWhilePending : Instr → Bool
  | .getAttrWaveform | .getAttrDutyCycle | .getAttrPeriod | .getAttrPhase | .getAttrPhaseCount | .getAttrVolume => true
  | .getAttrStatus | .getAttrNumChannels | .getAttrVolumeN _ | .getAttrSampleOffset | .getAttrSampleEnd => true
  | .getAttrSamplePeriod | .getAttrSampleRepeat | .getAttrSampleCallback | .getAttrSamplePosition => true
  | .getPtrWaveform | .getPtrSample | .boundaryReply _ => true
  | .setAttrWaveform _ | .setAttrDutyCycle _ | .setAttrPeriod _ | .setAttrPhase _ | .setAttrVolume _ => false
  | .setAttrVolumeN _ _ | .setAttrSampleOffset _ | .setAttrSampleEnd _ | .setAttrSamplePeriod _ => false
  | .setAttrSampleRepeat _ | .setAttrSampleCallback _ | .setPtrWaveform _ | .setPtrSample _ => false
  | .run _ | .endChunk _ | .reset | .attach _ | .detach | .dataNotifyReplaced _ | .dataNotifyDisposed _ => false
  | .reservedOp0 _ _ | .reservedOpcToOpf _ _ _ => false

end Sys2Proof.Machine
end

