-- ==== Sys2Proof/Certificates/Slice0/Obligations.lean ====
section
/-! DEFINITION. The statements for the provers, in the order of OBLIGATIONS.json. Each says in its docstring which rules of
spec/ it formalises, and names the log entry where a clause rests on a choice of the model. A rule the docstring calls
inferred is one the spec itself marks "derived" from other rules. -/

open Sys2Proof Sys2Proof.Machine

/-! ### Encoding and fetch -/

/-- Every well-formed command's words decode to it, whatever follows them (R150 to R156). -/
def Obligations.DecodeInvertsEncode : Prop :=
  ∀ (i : Instr) (rest : List Word), i.wellFormed = true → decode (encode i ++ rest) = .command i rest

/-- The only words that decode to a command are that command's own, and it is well-formed: no bit is dropped (R151 to
R156). -/
def Obligations.EncodeInvertsDecode : Prop :=
  ∀ (ws : List Word) (i : Instr) (rest : List Word), decode ws = .command i rest →
    i.wellFormed = true ∧ encode i ++ rest = ws

/-- The ten encoding examples of R163 (inferred): the words decode to the command, and the text stands for the words, with
the default FRAC. -/
def Obligations.SpecExampleWordsDecode : Prop :=
  decode [0x10300000, 0x00100000] = .command (.setAttrPeriod 0x100000) [] ∧
  decode [0x20700000] = .command .getAttrStatus [] ∧
  decode [0x11100000, 0x00004000] = .command (.setAttrVolumeN 1 16384) [] ∧
  decode [0x30200000, 0x00000001] = .command (.setPtrSample 1) [] ∧
  decode [0x50000000, 0x01400000, 0x00000000] = .command (.run (20 * 2 ^ 20)) [] ∧
  decode [0x60000000, 0x00480000, 0x00000000] = .command (.endChunk (9 * 2 ^ 19)) [] ∧
  decode [0x70000000] = .command .reset [] ∧
  decode [0x80000000, 0x00000002] = .command (.attach 2) [] ∧
  decode [0xA0200000, 0x00000003] = .command (.dataNotifyDisposed 3) [] ∧
  decode [0xB0000000, 0x00000002] = .command (.boundaryReply 2) [] ∧
  assembleLine Config.default "SET PERIOD, 0x100000" = some [0x10300000, 0x00100000] ∧
  assembleLine Config.default "GET STATUS" = some [0x20700000] ∧
  assembleLine Config.default "SET VOLUME_1, 16384" = some [0x11100000, 0x00004000] ∧
  assembleLine Config.default "SETP SAMPLE, 1" = some [0x30200000, 0x00000001] ∧
  assembleLine Config.default "RUN 20s" = some [0x50000000, 0x01400000, 0x00000000] ∧
  assembleLine Config.default "END 4.5s" = some [0x60000000, 0x00480000, 0x00000000] ∧
  assembleLine Config.default "RESET" = some [0x70000000] ∧
  assembleLine Config.default "ATTACH 2" = some [0x80000000, 0x00000002] ∧
  assembleLine Config.default "NOTIFY DISPOSED, 3" = some [0xA0200000, 0x00000003] ∧
  assembleLine Config.default "REPLY PALINDROME" = some [0xB0000000, 0x00000002]

/-- When the words at the front of the command port decode to a command, a step takes those words and performs that
command; a well-formed command's words always do (R120, R150). -/
def Obligations.StepRunsDecodedCommand : Prop :=
  (∀ (s : State) (i : Instr) (rest : List Word), decode s.cmd = .command i rest → step s = exec i { s with cmd := rest }) ∧
  ∀ (s : State) (i : Instr) (rest : List Word), i.wellFormed = true → s.cmd = encode i ++ rest →
    step s = exec i { s with cmd := rest }

/-- The length of a command comes from OP alone, by the column *words* of R152 (R153); until that many words have arrived
the oscillator does nothing, and so after reset (R619; that a step then leaves the state as it is, is the model's choice of
log 4, and that nothing waits after reset that of log 2). -/
def Obligations.StepWaitsForAWholeCommand : Prop :=
  (List.range 16).map wordsOfOp = [1, 2, 1, 2, 1, 3, 3, 1, 2, 1, 2, 2, 1, 1, 1, 1] ∧
  (∀ s : State, s.cmd = [] → step s = .next s) ∧ step State.reset = .next State.reset ∧
  ∀ (s : State) (h : Word) (tail : List Word), s.cmd = h :: tail → tail.length + 1 < wordsOfOp (h.toNat / 2 ^ 28) →
    step s = .next s

/-- The illegal encodings and their answers (R158 items 1 to 5, R601); each consumes the words its OP gives (R153). A GET's
failure carries a value word 0 (R160). The last clause is for an oscillator that waits for no reply: the pending check comes
before the key check of SET_ATTR, SET_PTR and DATA_NOTIFY (R610 items 2 and 3; PendingRefusesOtherCommands). -/
def Obligations.IllegalEncodingsAnswer : Prop :=
  (∀ (k r : Nat) (s : State), exec (.reservedOp0 k r) s = .next (s.emit [.response 0xFFFFFFFC none])) ∧
  (∀ (op k r : Nat) (s : State), exec (.reservedOpcToOpf op k r) s = .next (s.emit [.response 0xFFFFFFFC none])) ∧
  ∀ (s : State) (h : Word) (tail : List Word), s.cmd = h :: tail →
    ∀ op key rsv n : Nat, op = h.toNat / 2 ^ 28 → key = h.toNat / 2 ^ 20 % 256 → rsv = h.toNat % 2 ^ 20 →
      n + 1 = wordsOfOp op → n ≤ tail.length →
      (op = 0 ∨ 12 ≤ op → step s = .next (State.emit { s with cmd := tail } [.response 0xFFFFFFFC none])) ∧
      (1 ≤ op → op ≤ 11 → rsv ≠ 0 →
        step s = .next (State.emit { s with cmd := tail.drop n }
          [.response 0xFFFFFFFC (if op = 2 ∨ op = 4 then some 0 else none)])) ∧
      (op ∈ [5, 6, 7, 8, 9, 11] → key ≠ 0 →
        step s = .next (State.emit { s with cmd := tail.drop n } [.response 0xFFFFFFFC none])) ∧
      ∀ listed : List Nat,
        listed = [1, 2, 3, 4, 5, 6, 7, 8, 0x10, 0x11, 0x12, 0x13, 0x14, 0x15, 0x16, 0x17] ++
          [0x20, 0x21, 0x22, 0x23, 0x24, 0x25] →
        (rsv = 0 → op = 2 ∧ key ∉ listed ∨ op = 4 ∧ key ∉ [1, 2] →
          step s = .next (State.emit { s with cmd := tail.drop n } [.response 0xFFFFFFFE (some 0)])) ∧
        (s.pending = false → rsv = 0 →
          op = 1 ∧ (key ∉ listed ∨ key ∈ [5, 7, 8, 0x25]) ∨ (op = 3 ∨ op = 10) ∧ key ∉ [1, 2] →
          step s = .next (State.emit { s with cmd := tail.drop n } [.response 0xFFFFFFFE none]))

/-- The codes of the statuses, waveforms and policies (R600, R52, R65), the statuses as 32-bit two's-complement words
(R160). -/
def Obligations.CodesOfEnumerations : Prop :=
  [Status.ok, .allocation, .invalidAttribute, .invalidValue, .invalidState].map Status.word =
      [0, 0xFFFFFFFF, 0xFFFFFFFE, 0xFFFFFFFD, 0xFFFFFFFC] ∧
  [Status.invalidNumChannels, .invalidNumFrames, .invalidNumBits, .invalidReturnValue].map Status.word =
      [0xFFFFFFFB, 0xFFFFFFFA, 0xFFFFFFF9, 0xFFFFFFF8] ∧
  [Waveform.custom, .square, .triangle, .noise, .sawtooth, .sine, .sample].map Waveform.code = [0, 1, 2, 3, 4, 5, 6] ∧
  [Policy.none, .repeats, .palindrome].map Policy.code = [0, 1, 2]

/-! ### Reset, invariant, completion -/

/-- Power-on reset (R700): every field of R50, and STATUS, with the default parameters of R7. -/
def Obligations.PowerOnValues : Prop :=
  State.reset.attached = false ∧ State.reset.nch = 0 ∧ State.reset.waveform = .square ∧ State.reset.phase = 0 ∧
  State.reset.duty = 4 ∧ State.reset.period = 0x100000 ∧ (∀ c, State.reset.volumeAt c = 0) ∧ State.reset.time = 0 ∧
  (∀ c, State.reset.lastAt c = 0) ∧ State.reset.lfsr = 0x0001 ∧ State.reset.wavePtr = 0 ∧ State.reset.samplePtr = 0 ∧
  State.reset.sampleOffset = 0 ∧ State.reset.sampleEnd = 0 ∧ State.reset.samplePeriod = 0x100000 ∧
  State.reset.sampleRepeat = .none ∧ State.reset.sampleCallback = false ∧ State.reset.pos = 0 ∧
  State.reset.dir = .forward ∧ State.reset.halted = false ∧ State.reset.pending = false ∧ State.reset.susp = none ∧
  statusWord State.reset = 0

/-- The power-on state meets the invariant, and holds no handle whose duty could be broken (R700; R75, inferred): with the
default parameters, and with any others that are well-formed; a machine with others is refused (R8, whose list of what is
ill-formed logs 20 and 23 complete). A machine is built only with the sine table of R205's formula. -/
def Obligations.ResetMeetsInvariant : Prop :=
  (State.reset.Inv ∧ State.reset.HostDuty ∧ State.reset.cfg = Config.default) ∧
  ∀ (p : Config.Params) (h : p.SineTableByFormula),
    (p.WellFormed → ∃ s, State.resetWith p h = some s ∧ s.cfg = p ∧ s.Inv ∧ s.HostDuty) ∧
    (¬ p.DeltasFit → State.resetWith p h = none) ∧
    (p = Config.default → State.resetWith p h = some State.reset)

/-- R75 (inferred) with the ranges of R50: every step, of any command or illegal word, whatever shapes the host gave its data,
keeps the invariant, for every well-formed configuration (R8; logs 20 and 23). The ranges that read `DataFrames` go by the count
validated (log 7). -/
def Obligations.StepKeepsInvariant : Prop := ∀ s t : State, s.Inv → step s = .next t → t.Inv

/-- Every step completes while the host keeps its duty (R604, R106; R712, inferred), and no step breaks that duty. -/
def Obligations.StepCompletesUnderHostDuty : Prop :=
  ∀ s : State, s.Inv → s.HostDuty → ∃ t, step s = .next t ∧ t.HostDuty

/-- A RUN or END that would read a Data object no longer live, or of another shape than validated, stops with
DataShapeChanged (R605, R106), with nothing put out after what stood on the ports; so does a BOUNDARY_REPLY whose resumed
command would, after the reply's own response 0 (R322, R608). No command stops in any other way, nor while the host keeps its
duty. -/
def Obligations.ShapeChangeStopsTheReadingStep : Prop :=
  (∀ (s : State) (e : Nat), s.Inv → s.attached = true → s.pending = false → s.time < e → e ≤ s.cfg.maxEndTime →
    (s.waveform = .custom ∧ (dataShape s s.wavePtr ≠ some s.waveShape ∨ s.waveIdentity = .disposed) ∨
      s.waveform = .sample ∧ s.halted = false ∧
        (dataShape s s.samplePtr ≠ some s.sampleShape ∨ s.sampleIdentity = .disposed)) →
    exec (.run e) s = .fault (.dataShapeChanged s.out) ∧ exec (.endChunk e) s = .fault (.dataShapeChanged s.out)) ∧
  (∀ (s : State) (q : Susp) (p : Policy), s.Inv → s.susp = some q → p ≠ .none → s.time + s.period < q.endTime →
    (dataShape s s.samplePtr ≠ some s.sampleShape ∨ s.sampleIdentity = .disposed) →
    exec (.boundaryReply p.code) s = .fault (.dataShapeChanged (s.out ++ [.response 0 none]))) ∧
  ∀ (s : State) (i : Instr), s.Inv → (∃ t, exec i s = .next t) ∨
    ¬ s.HostDuty ∧ ∃ out, exec i s = .fault (.dataShapeChanged out) ∧
      (((∃ e, i = .run e) ∨ ∃ e, i = .endChunk e) ∧ out = s.out ∨
        (∃ p : Policy, i = .boundaryReply p.code) ∧ out = s.out ++ [.response 0 none])

/-! ### Reads -/

/-- GET_ATTR of the waveform keys, in every state, pending or detached (R450 to R458, R465). PHASE_COUNT of CUSTOM is the
count validated (log 7); that a VOLUME_n at or beyond MAX_CHANNELS has no key is the model's reading (log 21). -/
def Obligations.GetAnswersWaveformKeys : Prop :=
  ∀ s : State,
    exec .getAttrWaveform s = .next (s.respondValue .ok (BitVec.ofInt 32 s.waveform.code)) ∧
    exec .getAttrDutyCycle s = .next (s.respondValue .ok (BitVec.ofNat 32 s.duty)) ∧
    exec .getAttrPeriod s = .next (s.respondValue .ok (BitVec.ofNat 32 s.period)) ∧
    exec .getAttrPhase s = .next (s.respondValue .ok (BitVec.ofNat 32 s.phase)) ∧
    exec .getAttrPhaseCount s =
      .next (s.respondValue .ok (BitVec.ofNat 32
        (match s.waveform with
          | .custom => s.waveShape.frames
          | .square => s.cfg.nSquare
          | .triangle => s.cfg.nTriangle
          | .noise => s.cfg.nNoise
          | .sawtooth => s.cfg.nSawtooth
          | .sine => s.cfg.nSine
          | .sample => 1))) ∧
    exec .getAttrVolume s = .next (s.respondValue .ok (BitVec.ofNat 32 (s.volumeAt 0))) ∧
    exec .getAttrStatus s = .next (s.respondValue .ok (statusWord s)) ∧
    exec .getAttrNumChannels s = .next (s.respondValue .ok (BitVec.ofNat 32 s.nch)) ∧
    (∀ n < s.cfg.maxChannels,
      exec (.getAttrVolumeN n) s = .next (s.respondValue .ok (BitVec.ofNat 32 (s.volumeAt n)))) ∧
    ∀ n, s.cfg.maxChannels ≤ n → exec (.getAttrVolumeN n) s = .next (s.respondValue .invalidAttribute 0)

/-- GET_ATTR of the sample keys, in every state (R459 to R465); SAMPLE_POSITION is the floor of the position in frames. In a
legal state the position is a signed 64-bit value (R67) and its frame, like the bounds of the range, an int32 (R464): for a
configuration other than the default this is what log 23 asks of it. -/
def Obligations.GetAnswersSampleKeys : Prop :=
  ∀ s : State,
    exec .getAttrSampleOffset s = .next (s.respondValue .ok (BitVec.ofNat 32 s.sampleOffset)) ∧
    exec .getAttrSampleEnd s = .next (s.respondValue .ok (BitVec.ofNat 32 s.sampleEnd)) ∧
    exec .getAttrSamplePeriod s = .next (s.respondValue .ok (BitVec.ofInt 32 s.samplePeriod)) ∧
    exec .getAttrSampleRepeat s = .next (s.respondValue .ok (BitVec.ofInt 32 s.sampleRepeat.code)) ∧
    exec .getAttrSampleCallback s = .next (s.respondValue .ok (if s.sampleCallback then 1 else 0)) ∧
    exec .getAttrSamplePosition s =
      .next (s.respondValue .ok (BitVec.ofInt 32 (Int.floor ((s.pos : ℚ) / 2 ^ s.cfg.frac)))) ∧
    (s.Inv → (-2 ^ 63 ≤ s.pos ∧ s.pos < 2 ^ 63) ∧ (s.sampleOffset < 2 ^ 31 ∧ s.sampleEnd < 2 ^ 31) ∧
      -2 ^ 31 ≤ Int.floor ((s.pos : ℚ) / 2 ^ s.cfg.frac) ∧ Int.floor ((s.pos : ℚ) / 2 ^ s.cfg.frac) < 2 ^ 31)

/-- The STATUS word's bits (R70): four flags, and bits 31:4 read as 0. -/
def Obligations.StatusWordBits : Prop :=
  ∀ s : State,
    (statusWord s).getLsbD 0 = s.attached ∧ (statusWord s).getLsbD 1 = s.halted ∧
    (statusWord s).getLsbD 2 = s.pending ∧ (statusWord s).getLsbD 3 = decide (s.dir = .reverse) ∧
    ∀ b, 4 ≤ b → (statusWord s).getLsbD b = false

/-- GET_PTR answers the handle held, in every state, and 0 once the table or the sample has been dropped (R502, R503). -/
def Obligations.GetPtrAnswersHandles : Prop :=
  ∀ s : State,
    exec .getPtrWaveform s = .next (s.respondValue .ok (BitVec.ofNat 32 s.wavePtr)) ∧
    exec .getPtrSample s = .next (s.respondValue .ok (BitVec.ofNat 32 s.samplePtr)) ∧
    exec .getPtrWaveform (dropWave s) = .next ((dropWave s).respondValue .ok 0) ∧
    exec .getPtrSample (dropSample s) = .next ((dropSample s).respondValue .ok 0)

/-- The round-trip law (R466, inferred): a SET that succeeds is read back as its clamped value, or as the value itself for WAVEFORM
and SAMPLE_REPEAT; a RUN or END writes no other RW key than PHASE. The bound of SAMPLE_OFFSET and SAMPLE_END is the frame
count validated, which is `DataFrames(samplePtr)` while the host keeps its duty (log 7). -/
def Obligations.SetThenGetRoundTrip : Prop :=
  (∀ (s : State) (v : Int), s.Inv → -2 ^ 31 ≤ v → v < 2 ^ 31 →
    readsBack (.setAttrWaveform v) .getAttrWaveform s (fun _ => v) ∧
    readsBack (.setAttrDutyCycle v) .getAttrDutyCycle s (fun _ => min (max v 1) ((s.cfg.nSquare : Int) - 1)) ∧
    readsBack (.setAttrPeriod v) .getAttrPeriod s (fun _ => min (max v s.cfg.periodMin) s.cfg.periodMax) ∧
    readsBack (.setAttrPhase v) .getAttrPhase s (fun t => min (max v 0) ((phaseCount t : Int) - 1)) ∧
    readsBack (.setAttrVolume v) .getAttrVolume s (fun _ => min (max v 0) s.cfg.volMax) ∧
    (∀ n < s.cfg.maxChannels, readsBack (.setAttrVolumeN n v) (.getAttrVolumeN n) s (fun _ => min (max v 0) s.cfg.volMax)) ∧
    readsBack (.setAttrSampleOffset v) .getAttrSampleOffset s (fun t => min (max v 0) t.sampleShape.frames) ∧
    readsBack (.setAttrSampleEnd v) .getAttrSampleEnd s (fun t => min (max v 0) t.sampleShape.frames) ∧
    readsBack (.setAttrSamplePeriod v) .getAttrSamplePeriod s (fun _ => min (max v (-0x7FFFFFFF)) 0x7FFFFFFF) ∧
    readsBack (.setAttrSampleRepeat v) .getAttrSampleRepeat s (fun _ => v) ∧
    readsBack (.setAttrSampleCallback v) .getAttrSampleCallback s (fun _ => min (max v 0) 1)) ∧
  ∀ (s t : State) (e : Nat), exec (.run e) s = .next t ∨ exec (.endChunk e) s = .next t → SameAttributes s t

/-! ### Attribute writes -/

/-- SET_ATTR WAVEFORM (R400): each built-in code; any other value is refused. -/
def Obligations.SetWaveformSelects : Prop :=
  ∀ s : State, s.pending = false →
    (∀ (v : Int) (w : Waveform), w = .square ∨ w = .triangle ∨ w = .noise ∨ w = .sawtooth ∨ w = .sine → v = w.code →
      exec (.setAttrWaveform v) s =
        .next (State.respond (if w = s.waveform then s else { s with waveform := w, phase := 0 }) .ok)) ∧
    ∀ v : Int, v < 1 ∨ 5 < v → exec (.setAttrWaveform v) s = .next (s.respond .invalidValue)

/-- SET_ATTR DUTY_CYCLE (R401) and PERIOD (R402) clamp. -/
def Obligations.SetDutyAndPeriodClamp : Prop :=
  ∀ (s : State) (v : Int), s.pending = false →
    exec (.setAttrDutyCycle v) s =
      .next (State.respond { s with duty := (min (max v 1) ((s.cfg.nSquare - 1 : Nat) : Int)).toNat } .ok) ∧
    exec (.setAttrPeriod v) s =
      .next (State.respond { s with period := (min (max v s.cfg.periodMin) s.cfg.periodMax).toNat } .ok)

/-- SET_ATTR PHASE (R403): it clamps below the phase count, and restarts playback in SAMPLE mode. -/
def Obligations.SetPhaseClamps : Prop :=
  ∀ (s : State) (v : Int), s.pending = false →
    (s.waveform ≠ .sample →
      exec (.setAttrPhase v) s =
        .next (State.respond { s with phase := (min (max v 0) ((phaseCount s : Int) - 1)).toNat } .ok)) ∧
    (s.waveform = .sample → exec (.setAttrPhase v) s = .next (State.respond (restart { s with phase := 0 }) .ok))

/-- SET_ATTR VOLUME (R404) writes every channel, VOLUME_n (R405) one; both clamp, and both leave every other field. A VOLUME_n
at or beyond MAX_CHANNELS has no key and answers INVALID_ATTRIBUTE, which is the model's reading (log 21). -/
def Obligations.SetVolumesClamp : Prop :=
  ∀ (s : State) (v : Int), s.pending = false → s.volume.length = s.cfg.maxChannels →
    (∃ t : State, exec (.setAttrVolume v) s = .next (t.respond .ok) ∧ t = { s with volume := t.volume } ∧
      t.volume.length = s.cfg.maxChannels ∧ ∀ c < s.cfg.maxChannels, t.volumeAt c = (min (max v 0) s.cfg.volMax).toNat) ∧
    (∀ n < s.cfg.maxChannels, ∃ t : State, exec (.setAttrVolumeN n v) s = .next (t.respond .ok) ∧
      t = { s with volume := t.volume } ∧ t.volume.length = s.cfg.maxChannels ∧
      ∀ c < s.cfg.maxChannels, t.volumeAt c = if c = n then (min (max v 0) s.cfg.volMax).toNat else s.volumeAt c) ∧
    ∀ n, s.cfg.maxChannels ≤ n → exec (.setAttrVolumeN n v) s = .next (s.respond .invalidAttribute)

/-- SET_ATTR SAMPLE_OFFSET and SAMPLE_END (R406, R407): refused without a sample, else clamped, and playback restarts. The
bound is the frame count validated (log 7), which is `DataFrames(samplePtr)` while the host keeps its duty. -/
def Obligations.SetSampleRangeRestarts : Prop :=
  ∀ (s : State) (v : Int), s.pending = false →
    (s.samplePtr = 0 →
      exec (.setAttrSampleOffset v) s = .next (s.respond .invalidState) ∧
      exec (.setAttrSampleEnd v) s = .next (s.respond .invalidState)) ∧
    (s.samplePtr ≠ 0 →
      exec (.setAttrSampleOffset v) s =
        .next (State.respond (restart { s with sampleOffset := (min (max v 0) s.sampleShape.frames).toNat }) .ok) ∧
      exec (.setAttrSampleEnd v) s =
        .next (State.respond (restart { s with sampleEnd := (min (max v 0) s.sampleShape.frames).toNat }) .ok) ∧
      (s.HostDuty → (dataShape s s.samplePtr).map Shape.frames = some s.sampleShape.frames))

/-- SET_ATTR SAMPLE_PERIOD (R408), SAMPLE_REPEAT (R409) and SAMPLE_CALLBACK (R410). -/
def Obligations.SetPlaybackAttributes : Prop :=
  ∀ (s : State) (v : Int), s.pending = false →
    exec (.setAttrSamplePeriod v) s =
      .next (State.respond { s with samplePeriod := min (max v (-(2 ^ 31 - 1))) (2 ^ 31 - 1) } .ok) ∧
    (∀ p : Policy, v = p.code → exec (.setAttrSampleRepeat v) s = .next (State.respond { s with sampleRepeat := p } .ok)) ∧
    (v < 0 ∨ 2 < v → exec (.setAttrSampleRepeat v) s = .next (s.respond .invalidValue)) ∧
    exec (.setAttrSampleCallback v) s = .next (State.respond { s with sampleCallback := decide (1 ≤ v) } .ok)

/-- Rewriting the value a field holds changes no field (R414, inferred), but for the restarts of PHASE in SAMPLE mode, SAMPLE_OFFSET
and SAMPLE_END. -/
def Obligations.RewriteLeavesEveryField : Prop :=
  ∀ s : State, s.Inv → s.pending = false →
    (s.waveform ≠ .custom → s.waveform ≠ .sample → exec (.setAttrWaveform s.waveform.code) s = .next (s.respond .ok)) ∧
    exec (.setAttrDutyCycle s.duty) s = .next (s.respond .ok) ∧
    exec (.setAttrPeriod s.period) s = .next (s.respond .ok) ∧
    (s.waveform ≠ .sample → exec (.setAttrPhase s.phase) s = .next (s.respond .ok)) ∧
    (∀ v : Nat, (∀ c < s.cfg.maxChannels, s.volumeAt c = v) → exec (.setAttrVolume v) s = .next (s.respond .ok)) ∧
    (∀ n < s.cfg.maxChannels, exec (.setAttrVolumeN n (s.volumeAt n)) s = .next (s.respond .ok)) ∧
    exec (.setAttrSamplePeriod s.samplePeriod) s = .next (s.respond .ok) ∧
    exec (.setAttrSampleRepeat s.sampleRepeat.code) s = .next (s.respond .ok) ∧
    exec (.setAttrSampleCallback (if s.sampleCallback then 1 else 0)) s = .next (s.respond .ok)

/-! ### Pointers and notifications -/

/-- SET_PTR WAVEFORM (R500, R507). The shape and identity kept beside the handle are bookkeeping of R605 and R125; what stands
there while no handle is held is left open here (log 7, log 22). -/
def Obligations.SetPtrWaveformSelects : Prop :=
  ∀ (s : State) (h : Nat), s.pending = false →
    (h = 0 → ∃ sh id, exec (.setPtrWaveform h) s =
      .next (State.respond
        (if s.waveform = .custom then
          { s with wavePtr := 0, waveShape := sh, waveIdentity := id, waveform := .square, phase := 0 }
        else { s with wavePtr := 0, waveShape := sh, waveIdentity := id }) .ok)) ∧
    (h ≠ 0 → dataShape s h = none → exec (.setPtrWaveform h) s = .next (s.respond .invalidValue)) ∧
    (∀ sh, dataShape s h = some sh → sh.frames < s.cfg.customMin ∨ s.cfg.customMax < sh.frames →
      exec (.setPtrWaveform h) s = .next (s.respond .invalidNumFrames)) ∧
    ∀ sh, dataShape s h = some sh → s.cfg.customMin ≤ sh.frames → sh.frames ≤ s.cfg.customMax →
      exec (.setPtrWaveform h) s =
        .next (State.respond
          { s with wavePtr := h, waveShape := sh, waveIdentity := .same, waveform := .custom, phase := 0 } .ok)

/-- SET_PTR SAMPLE (R501, R508); the shape and identity kept are bookkeeping of R605 and R125, open while no handle is held
(log 7, log 22). -/
def Obligations.SetPtrSampleSelects : Prop :=
  ∀ (s : State) (h : Nat), s.pending = false →
    (h = 0 → ∃ sh id, ∃ t : State, exec (.setPtrSample h) s = .next (t.respond .ok) ∧
      t = { s with
        samplePtr := 0, sampleShape := sh, sampleIdentity := id, sampleOffset := 0, sampleEnd := 0, pos := 0, dir := .forward, halted := false
        waveform := if s.waveform = .sample then .square else s.waveform
        phase := if s.waveform = .sample then 0 else s.phase }) ∧
    (h ≠ 0 → dataShape s h = none → exec (.setPtrSample h) s = .next (s.respond .invalidValue)) ∧
    (∀ sh, dataShape s h = some sh → sh.frames < 1 ∨ s.cfg.maxFrames < sh.frames →
      exec (.setPtrSample h) s = .next (s.respond .invalidNumFrames)) ∧
    ∀ sh, dataShape s h = some sh → 1 ≤ sh.frames → sh.frames ≤ s.cfg.maxFrames →
      exec (.setPtrSample h) s =
        .next (State.respond
          { s with
            samplePtr := h, sampleShape := sh, sampleIdentity := .same, sampleOffset := 0, sampleEnd := sh.frames
            waveform := .sample, phase := 0, dir := .forward, halted := false
            pos := if 0 ≤ s.samplePeriod then 0 else ((sh.frames : Int) - 1) * 2 ^ s.cfg.frac } .ok)

/-- DATA_NOTIFY REPLACED (R505): the wave part, then the sample part; a handle not held is ignored, handle 0 is refused. The
dropping helpers are those of R507 and R508 that SetPtrWaveformSelects and SetPtrSampleSelects state. -/
def Obligations.NotifyReplacedRevalidates : Prop :=
  ∀ (s : State) (h : Nat), s.pending = false →
    (h = 0 → exec (.dataNotifyReplaced h) s = .next (s.respond .invalidValue)) ∧
    (h ≠ 0 → ∃ w t, exec (.dataNotifyReplaced h) s = .next (State.respond t .ok) ∧
      (s.wavePtr ≠ h → w = s) ∧
      (s.wavePtr = h → ∀ sh, dataShape s h = some sh → s.cfg.customMin ≤ sh.frames ∧ sh.frames ≤ s.cfg.customMax →
        w = { s with waveShape := sh, waveIdentity := .same, phase := if s.waveform = .custom then 0 else s.phase }) ∧
      (s.wavePtr = h →
        (∀ sh, dataShape s h = some sh → sh.frames < s.cfg.customMin ∨ s.cfg.customMax < sh.frames) → w = dropWave s) ∧
      (s.samplePtr ≠ h → t = w) ∧
      (s.samplePtr = h → ∀ sh, dataShape s h = some sh → 1 ≤ sh.frames ∧ sh.frames ≤ s.cfg.maxFrames →
        t = restart { w with sampleShape := sh, sampleIdentity := .same, sampleOffset := 0, sampleEnd := sh.frames }) ∧
      (s.samplePtr = h → (∀ sh, dataShape s h = some sh → sh.frames < 1 ∨ s.cfg.maxFrames < sh.frames) → t = dropSample w))

/-- DATA_NOTIFY DISPOSED (R506): afterwards the oscillator holds no reference to the handle, and a handle not held changes
nothing. -/
def Obligations.NotifyDisposedReleases : Prop :=
  ∀ (s : State) (h : Nat), s.pending = false →
    (h = 0 → exec (.dataNotifyDisposed h) s = .next (s.respond .invalidValue)) ∧
    (h ≠ 0 → ∃ t, exec (.dataNotifyDisposed h) s = .next (State.respond t .ok) ∧ t.wavePtr ≠ h ∧ t.samplePtr ≠ h ∧
      (s.wavePtr ≠ h → s.samplePtr ≠ h → t = s) ∧
      (s.wavePtr = h → s.samplePtr ≠ h → t = dropWave s) ∧
      (s.wavePtr ≠ h → s.samplePtr = h → t = dropSample s) ∧
      (s.wavePtr = h → s.samplePtr = h → t = dropSample (dropWave s)))

/-! ### Lifecycle -/

/-- `Restart(u)` (R302): the start of the range, forward or backward; an empty range halts, no sample does not. -/
def Obligations.RestartPlacesPlayback : Prop :=
  ∀ s : State,
    (s.samplePtr = 0 →
      restart s = { s with dir := .forward, halted := false, pos := (s.sampleOffset : Int) * 2 ^ s.cfg.frac }) ∧
    (s.samplePtr ≠ 0 → s.sampleEnd ≤ s.sampleOffset →
      restart s = { s with dir := .forward, halted := true, pos := (s.sampleOffset : Int) * 2 ^ s.cfg.frac }) ∧
    (s.samplePtr ≠ 0 → s.sampleOffset < s.sampleEnd → 0 ≤ s.samplePeriod →
      restart s = { s with dir := .forward, halted := false, pos := (s.sampleOffset : Int) * 2 ^ s.cfg.frac }) ∧
    (s.samplePtr ≠ 0 → s.sampleOffset < s.sampleEnd → s.samplePeriod < 0 →
      restart s = { s with dir := .forward, halted := false, pos := ((s.sampleEnd : Int) - 1) * 2 ^ s.cfg.frac })

/-- RESET (R350, R357): the counters cleared, playback restarted, everything else kept, no sink transaction; a second RESET
changes nothing more. -/
def Obligations.ResetClearsTime : Prop :=
  ∀ s : State, s.pending = false →
    ∃ u, u = restart { s with time := 0, phase := 0, last := List.replicate s.cfg.maxChannels 0, lfsr := s.cfg.lfsrSeed } ∧
      exec .reset s = .next (u.respond .ok) ∧ exec .reset u = .next (u.respond .ok)

/-- ATTACH (R352) and DETACH (R354): the checks in order, then the link and ClearTime (R357). -/
def Obligations.AttachAndDetach : Prop :=
  ∀ s : State, s.pending = false →
    (∀ n : Int, s.attached = true → exec (.attach n) s = .next (s.respond .invalidState)) ∧
    (∀ n : Int, s.attached = false → n < 1 ∨ (s.cfg.maxChannels : Int) < n →
      exec (.attach n) s = .next (s.respond .invalidNumChannels)) ∧
    (∀ n : Int, s.attached = false → 1 ≤ n → n ≤ s.cfg.maxChannels →
      exec (.attach n) s =
        .next (State.respond
          (restart { s with
            attached := true, nch := n.toNat, time := 0, phase := 0, last := List.replicate s.cfg.maxChannels 0
            lfsr := s.cfg.lfsrSeed })
          .ok)) ∧
    (s.attached = false → exec .detach s = .next (s.respond .invalidState)) ∧
    (s.attached = true →
      exec .detach s =
        .next (State.respond
          (restart { s with
            attached := false, nch := 0, time := 0, phase := 0, last := List.replicate s.cfg.maxChannels 0
            lfsr := s.cfg.lfsrSeed })
          .ok))

/-! ### Amplitudes -/

/-- The built-in waveforms (R201, R207; R203, R204 and R206, inferred), by the tables the spec prints for the default
parameters; and SINE, with the table of R205's formula, which every machine is built with, is `AMP_MAX * sin` of the phase,
rounded, halves away from zero. -/
def Obligations.BuiltInAmplitudes : Prop :=
  ∀ (s : State) (c : Nat),
    (s.waveform = .square → amplitude s c = .ok (if s.phase < s.duty then s.cfg.ampMax else -s.cfg.ampMax)) ∧
    (s.cfg = Config.default → s.waveform = .triangle → s.phase < 32 →
      amplitude s c = .ok
        (([-32767, -28398, -24029, -19660, -15291, -10922, -6553, -2184, 2184, 6553, 10922, 15291, 19660, 24029] ++
          [28398, 32767, 32767, 28398, 24029, 19660, 15291, 10922, 6553, 2184, -2184, -6553, -10922, -15291] ++
          [-19660, -24029, -28398, -32767] : List Int).getD s.phase 0)) ∧
    (s.cfg = Config.default → s.waveform = .sawtooth → s.phase < 7 →
      amplitude s c = .ok (([-32767, -21844, -10922, 0, 10922, 21844, 32767] : List Int).getD s.phase 0)) ∧
    (s.cfg = Config.default → s.waveform = .sine → s.phase < 32 →
      amplitude s c = .ok
        (([0, 6393, 12539, 18204, 23170, 27245, 30273, 32137, 32767, 32137, 30273, 27245, 23170, 18204, 12539] ++
          [6393, 0, -6393, -12539, -18204, -23170, -27245, -30273, -32137, -32767, -32137, -30273, -27245] ++
          [-23170, -18204, -12539, -6393] : List Int).getD s.phase 0)) ∧
    (s.waveform = .noise → amplitude s c = .ok (if s.lfsr.testBit 0 then s.cfg.ampMax else -s.cfg.ampMax)) ∧
    (s.cfg.SineTableByFormula → s.waveform = .sine → s.phase < s.cfg.nSine → ∃ a, amplitude s c = .ok a ∧
      ∀ x : ℝ, x = s.cfg.ampMax * Real.sin (2 * Real.pi * s.phase / s.cfg.nSine) →
        |(a : ℝ) - x| ≤ 1 / 2 ∧ (|(a : ℝ) - x| = 1 / 2 → |x| < |(a : ℝ)|))

/-- CUSTOM reads channel 0 of the table at the phase (R208); SAMPLE reads the frame at the position from data channel
`c mod K`, and is silent while halted (R304). Where the host has put another object of the same counts behind the handle, the
frames are those of the object validated, until DATA_NOTIFY (R125; log 22). -/
def Obligations.DataAmplitudes : Prop :=
  ∀ (s : State) (c : Nat),
    (s.waveform = .custom → s.wavePtr ≠ 0 → s.HostDuty →
      (s.waveIdentity = .same → ∀ v, dataFrame s s.wavePtr s.phase 0 = some v → amplitude s c = .ok v) ∧
      ∀ o, s.waveIdentity = .replaced o → s.phase < o.frames → 0 < o.channels →
        amplitude s c = .ok (objectFrame o s.phase 0)) ∧
    (s.waveform = .sample → s.halted = true → amplitude s c = .ok 0) ∧
    (s.waveform = .sample → s.halted = false → s.samplePtr ≠ 0 → s.HostDuty → ∀ i : Nat, (i : Int) * 2 ^ s.cfg.frac ≤ s.pos →
      s.pos < ((i : Int) + 1) * 2 ^ s.cfg.frac → ∀ sh, dataShape s s.samplePtr = some sh →
      (s.sampleIdentity = .same → ∀ v, dataFrame s s.samplePtr i (c % sh.channels) = some v → amplitude s c = .ok v) ∧
      ∀ o, s.sampleIdentity = .replaced o → i < o.frames → c % sh.channels < o.channels →
        amplitude s c = .ok (objectFrame o i (c % sh.channels)))

/-- Every amplitude is a frame value, the same on every channel except in SAMPLE mode (R200), for every well-formed
configuration and a data-memory port that keeps its contract; and in a legal state the amplitude of every channel can be
read (R104, inferred). -/
def Obligations.AmplitudeIsFrameValue : Prop :=
  (∀ (s : State) (c : Nat) (a : Int), s.cfg.WellFormed → s.DataInv → s.phase < phaseCount s → amplitude s c = .ok a →
    s.cfg.frameMin ≤ a ∧ a ≤ s.cfg.frameMax ∧ (s.waveform ≠ .sample → ∀ d, amplitude s d = .ok a)) ∧
  ∀ (s : State) (c : Nat), s.Inv → s.HostDuty → s.pending = false → ∃ a, amplitude s c = .ok a

/-- The default sine table is what the formula gives (R205; R206): each of its 32 entries is the nearest integer to
`32767 * sin(2 * pi * i / 32)`, halves away from zero. -/
def Obligations.DefaultSineTableIsTheFormula : Prop :=
  Config.default.sineTable.length = 32 ∧ Config.default.SineTableByFormula

/-- The noise register of 15 bits (R211, inferred): from any state but 0 it runs through all 32767 states but 0 before it
repeats; the first 20 states from the seed, and their low bits. -/
def Obligations.LfsrFullPeriod : Prop :=
  (∀ r : Nat, 0 < r → r < 2 ^ 15 →
    (lfsrNext 15)^[32767] r = r ∧ (∀ n, 0 < n → n < 32767 → (lfsrNext 15)^[n] r ≠ r) ∧
      (∀ n, 0 < (lfsrNext 15)^[n] r ∧ (lfsrNext 15)^[n] r < 2 ^ 15) ∧
      ∀ q : Nat, 0 < q → q < 2 ^ 15 → ∃ n < 32767, (lfsrNext 15)^[n] r = q) ∧
  (List.range 20).map (fun n => (lfsrNext 15)^[n] 1) =
      [0x0001, 0x4000, 0x2000, 0x1000, 0x0800, 0x0400, 0x0200, 0x0100, 0x0080, 0x0040] ++
        [0x0020, 0x0010, 0x0008, 0x0004, 0x0002, 0x4001, 0x6000, 0x3000, 0x1800, 0x0C00] ∧
  (List.range 20).map (fun n => ((lfsrNext 15)^[n] 1) % 2) =
      [1, 0, 0, 0, 0, 0, 0, 0, 0, 0, 0, 0, 0, 0, 0, 1, 0, 0, 0, 0]

/-- Level (R255): the floor of amplitude times gain; with the defaults never above 32767 in magnitude, and the examples; 0 at
volume 0. -/
def Obligations.LevelFloors : Prop :=
  (∀ (p : Config.Params) (a : Int) (v : Nat), level p a v = Int.floor ((a * v : ℚ) / 2 ^ p.volFrac)) ∧
  (∀ (a : Int) (v : Nat), -32768 ≤ a → a ≤ 32767 → v ≤ 32767 → |level Config.default a v| ≤ 32767) ∧
  level Config.default 32767 32767 = 32766 ∧ level Config.default (-32767) 32767 = -32767 ∧
  level Config.default 200 16384 = 100 ∧ ∀ p a, level p a 0 = 0

/-! ### RUN and END -/

/-- The refusals of RUN and END (R250, R252, R262), detached first, then the time; and of BOUNDARY_REPLY (R322 items 2 and
3), with nothing pending, and with a policy that is none, when the request stays pending. -/
def Obligations.GeneratorRefusals : Prop :=
  ∀ s : State,
    (∀ e : Nat, s.pending = false → s.attached = false →
      exec (.run e) s = .next (s.respond .invalidState) ∧ exec (.endChunk e) s = .next (s.respond .invalidState)) ∧
    (∀ e : Nat, s.pending = false → s.attached = true → s.cfg.maxEndTime < e →
      exec (.run e) s = .next (s.respond .invalidValue) ∧ exec (.endChunk e) s = .next (s.respond .invalidValue)) ∧
    (∀ p : Int, s.pending = false → exec (.boundaryReply p) s = .next (s.respond .invalidState)) ∧
    ∀ p : Int, s.pending = true → s.susp.isSome = true → p < 0 ∨ 2 < p →
      exec (.boundaryReply p) s = .next (s.respond .invalidReturnValue)

/-- A RUN whose steps raise no request takes `k = ceil((endTime - time) / period)` steps (R254, inferred; R258): time, phase
and noise register after it, what it leaves alone, and its own response last (R122). -/
def Obligations.RunTakesTheStepsDue : Prop :=
  ∀ (s : State) (e k : Nat), s.Inv → s.HostDuty → s.attached = true → s.pending = false → e ≤ s.cfg.maxEndTime →
    k = Nat.ceil (((e : ℚ) - s.time) / s.period) → s.NoRequestBefore k →
    ∃ (t : State) (txs : List SinkTx), exec (.run e) s = .next t ∧ t.out = s.out ++ txs.map .sink ++ [.response 0 none] ∧
      t.time = s.time + k * s.period ∧ SameAttributes s t ∧ t.pending = false ∧ t.susp = none ∧
      (s.waveform ≠ .sample → t.phase = (s.phase + k) % phaseCount s ∧ t.pos = s.pos ∧ t.dir = s.dir ∧
        t.halted = s.halted) ∧
      (s.waveform = .sample → t.phase = s.phase) ∧
      t.lfsr = if s.waveform = .noise then (lfsrNext s.cfg.lfsrBits)^[k] s.lfsr else s.lfsr

/-- With nothing due, RUN changes no field, emits nothing and answers 0 (R253, inferred). -/
def Obligations.RunWithNothingDue : Prop :=
  ∀ (s : State) (e : Nat), s.attached = true → s.pending = false → e ≤ s.cfg.maxEndTime → e ≤ s.time →
    exec (.run e) s = .next (s.respond .ok)

/-- What a RUN sends to the sink (R213, R251, R256, R257; R259, inferred): channel by channel, one transaction at each step whose
level differs from the level before it, at the step's time `time + j * period`, carrying the difference; then each channel's
last level is its level at the last step. Everything but the emission is the course of the single steps. -/
def Obligations.RunEmitsLevelChanges : Prop :=
  ∀ (s : State) (e k : Nat), s.Inv → s.HostDuty → s.attached = true → s.pending = false → e ≤ s.cfg.maxEndTime →
    k = Nat.ceil (((e : ℚ) - s.time) / s.period) → s.NoRequestBefore k →
    ∃ t, exec (.run e) s = .next t ∧ t = { stepState k s with last := t.last, out := t.out } ∧
      t.out = s.out ++ ((List.range s.nch).flatMap fun c => levelChanges s c k).map .sink ++ [.response 0 none] ∧
      ∀ c < s.cfg.maxChannels, t.lastAt c = if c < s.nch then levelBefore s c k else s.lastAt c

/-- Every transaction a step issues is on an attached channel, before MAX_GEN samples, and carries a delta other than 0, no
larger than the change from the least level to the greatest, and so of at most 65534 with the defaults (R110, inferred;
R256); only RUN, END and a command that a reply resumes issue any (R411, R465, R504, R350, R354). -/
def Obligations.EmittedTransactionsAreLegal : Prop :=
  ∀ s t : State, s.Inv → step s = .next t →
    ∃ es, t.out = s.out ++ es ∧
      (∀ tx ∈ sinkTxs es, tx.channel < s.nch ∧ tx.time < s.cfg.maxEndTime ∧ tx.delta ≠ 0 ∧
        |tx.delta| ≤ s.cfg.levelMax - s.cfg.levelMin ∧ (s.cfg = Config.default → |tx.delta| ≤ 65534)) ∧
      (sinkTxs es ≠ [] → ∃ i rest, decode s.cmd = .command i rest ∧
        ((∃ e, i = .run e) ∨ (∃ e, i = .endChunk e) ∨ ∃ p, i = .boundaryReply p))

/-- The deltas sent on a channel sum to the change of its last level, over every command but RESET, ATTACH and DETACH, which
clear the level and send nothing (R261, inferred; R256, R357). -/
def Obligations.DeltasSumToLevelChange : Prop :=
  ∀ (s t : State) (i : Instr) (c : Nat), s.Inv → exec i s = .next t → c < s.cfg.maxChannels →
    ∃ es, t.out = s.out ++ es ∧
      (i ≠ .reset → i ≠ .detach → (∀ n, i ≠ .attach n) → deltaSum c (sinkTxs es) = t.lastAt c - s.lastAt c) ∧
      (i = .reset ∨ i = .detach ∨ (∃ n, i = .attach n) →
        sinkTxs es = [] ∧ (t.lastAt c = 0 ∨ t.lastAt c = s.lastAt c))

/-- A silenced oscillator sends one closing delta on each channel that had a level, and leaves no level (R261, inferred). -/
def Obligations.SilencedRunReturnsToZero : Prop :=
  ∀ (s : State) (e k : Nat), s.Inv → s.HostDuty → s.attached = true → s.pending = false → s.time < e →
    e ≤ s.cfg.maxEndTime → k = Nat.ceil (((e : ℚ) - s.time) / s.period) → s.NoRequestBefore k →
    (∀ c < s.nch, s.volumeAt c = 0) →
    ∃ t, exec (.run e) s = .next t ∧ t.out = s.out ++ (closingTxs s).map .sink ++ [.response 0 none] ∧
      ∀ c < s.nch, t.lastAt c = 0

/-- Halted playback is silent: a RUN sends the closing deltas, keeps the position, and goes on in time (R305, inferred). The host's
duty is not needed: no frame is read. -/
def Obligations.HaltedPlaybackIsSilent : Prop :=
  ∀ (s : State) (e : Nat), s.Inv → s.attached = true → s.pending = false → s.waveform = .sample → s.halted = true →
    s.time < e → e ≤ s.cfg.maxEndTime →
    ∃ t, exec (.run e) s = .next t ∧ t.out = s.out ++ (closingTxs s).map .sink ++ [.response 0 none] ∧
      (∀ c < s.nch, t.lastAt c = 0) ∧ t.pos = s.pos ∧ t.dir = s.dir ∧ t.halted = true ∧
      e ≤ t.time ∧ t.time < e + s.period

/-- END is the RUN of the steps still due, with the whole samples of its operand taken off the time afterwards (R270), where
those steps raise no request; with none due, the shift is all it does. The bounds of R271 (inferred). -/
def Obligations.EndShiftsTheTime : Prop :=
  ∀ (s : State) (e k : Nat), s.Inv → s.HostDuty → s.attached = true → s.pending = false → e ≤ s.cfg.maxEndTime →
    k = Nat.ceil (((e : ℚ) - s.time) / s.period) → s.NoRequestBefore k →
    ∃ u, exec (.run e) s = .next u ∧
      exec (.endChunk e) s = .next { u with time := u.time - e / 2 ^ s.cfg.frac * 2 ^ s.cfg.frac } ∧ e ≤ u.time ∧
      (s.time < e + s.period → u.time - e / 2 ^ s.cfg.frac * 2 ^ s.cfg.frac < e % 2 ^ s.cfg.frac + s.period) ∧
      (e ≤ s.time → u = s.respond .ok)

/-- Splitting a span into two chunks moves no pulse (R272, inferred): END at `a`, then a RUN to `b` in the new chunk, against
one RUN to `b`, whose steps raise no request. Each channel sends the same transactions at the same absolute times, and the
registers end the same, the time being shifted by the whole samples of `a`. -/
def Obligations.ChunksDoNotMovePulses : Prop :=
  ∀ (s : State) (a b w k : Nat), s.Inv → s.HostDuty → s.attached = true → s.pending = false →
    a ≤ b → b ≤ s.cfg.maxEndTime → w = a / 2 ^ s.cfg.frac * 2 ^ s.cfg.frac →
    k = Nat.ceil (((b : ℚ) - s.time) / s.period) → s.NoRequestBefore k →
    ∃ t u v es fs gs, exec (.endChunk a) s = .next t ∧ exec (.run (b - w)) t = .next u ∧ exec (.run b) s = .next v ∧
      t.out = s.out ++ es ∧ u.out = t.out ++ fs ∧ v.out = s.out ++ gs ∧
      v = { u with time := u.time + w, out := v.out } ∧
      ∀ c, channelOnly c (sinkTxs gs) = channelOnly c (sinkTxs es) ++ (channelOnly c (sinkTxs fs)).map (SinkTx.later w)

/-! ### Sample playback and the boundary wait -/

/-- The three policies (R308 to R310): NONE halts; REPEAT wraps into the range by a multiple of its length L; PALINDROME
reflects into it. That the reflections end in the range, having moved the position by a multiple of 2L after an even number
of them, or mirrored it about the end after an odd number (when the direction is turned round), is R311, inferred. -/
def Obligations.PoliciesPlaceThePosition : Prop :=
  ∀ (s : State) (O E : Int), s.sampleOffset < s.sampleEnd → O = s.sampleOffset * 2 ^ s.cfg.frac →
    E = s.sampleEnd * 2 ^ s.cfg.frac →
    applyPolicy .none s = { s with halted := true } ∧
    (∃ p, applyPolicy .repeats s = { s with pos := p } ∧ O ≤ p ∧ p < E ∧ (E - O) ∣ (p - s.pos)) ∧
    ∃ p d, applyPolicy .palindrome s = { s with pos := p, dir := d } ∧ O ≤ p ∧ p < E ∧
      (d = s.dir ∧ 2 * (E - O) ∣ (p - s.pos) ∨ d = s.dir.flip ∧ 2 * (E - O) ∣ (p - (2 * E - 1 - s.pos)))

/-- One advance of playback (R306, R307): halted, it stays; inside the range, the position moves by the effective step;
outside, the policy of `sampleRepeat` is applied, or the host is asked. -/
def Obligations.SampleAdvanceMovesThePosition : Prop :=
  ∀ (s : State) (p : Int), p = s.pos + (if s.dir = .forward then s.samplePeriod else -s.samplePeriod) →
    s.waveform = .sample →
    (s.halted = true → advance s = .done s) ∧
    (s.halted = false → s.sampleOffset * 2 ^ s.cfg.frac ≤ p → p < s.sampleEnd * 2 ^ s.cfg.frac →
      advance s = .done { s with pos := p }) ∧
    (s.halted = false → p < s.sampleOffset * 2 ^ s.cfg.frac ∨ s.sampleEnd * 2 ^ s.cfg.frac ≤ p →
      s.sampleCallback = false → advance s = .done (applyPolicy s.sampleRepeat { s with pos := p })) ∧
    (s.halted = false → s.sampleEnd * 2 ^ s.cfg.frac ≤ p → s.sampleCallback = true →
      advance s = .request { s with pos := p } .atEnd) ∧
    (s.halted = false → p < s.sampleOffset * 2 ^ s.cfg.frac → p < s.sampleEnd * 2 ^ s.cfg.frac → s.sampleCallback = true →
      advance s = .request { s with pos := p } .atStart)

/-- Entry into the boundary wait (R320, R606, R607): the step after `k` whole ones crosses the range; RUN and END suspend with
those steps and the one in progress, `pending` is set, the request carries the edge and the integer position, nothing is
sent to the sink, and nothing else changes but what the steps did. -/
def Obligations.BoundaryRequestSuspends : Prop :=
  ∀ (s : State) (e k : Nat) (p : Nat → Int), s.Inv → s.HostDuty → s.attached = true → s.pending = false →
    s.waveform = .sample → s.halted = false → s.sampleCallback = true →
    (∀ j, p j = s.pos + j * (if s.dir = .forward then s.samplePeriod else -s.samplePeriod)) →
    (∀ j ≤ k, s.sampleOffset * 2 ^ s.cfg.frac ≤ p j ∧ p j < s.sampleEnd * 2 ^ s.cfg.frac) →
    (p (k + 1) < s.sampleOffset * 2 ^ s.cfg.frac ∨ s.sampleEnd * 2 ^ s.cfg.frac ≤ p (k + 1)) →
    s.time + k * s.period < e → e ≤ s.cfg.maxEndTime →
    ∃ steps amps edge, (edge = .atEnd ↔ s.sampleEnd * 2 ^ s.cfg.frac ≤ p (k + 1)) ∧ steps.length = k ∧ amps.length = s.nch ∧
      (∀ j < k, ∃ r, steps[j]? = some r ∧ r.time = s.time + j * s.period ∧ r.amps.length = s.nch ∧
        ∀ c < s.nch, amplitude { s with pos := p j } c = .ok (r.amps.getD c 0)) ∧
      (∀ c < s.nch, amplitude { s with pos := p k } c = .ok (amps.getD c 0)) ∧
      ∀ i kind, (i = .run e ∧ kind = .run ∨ i = .endChunk e ∧ kind = .endChunk (e / 2 ^ s.cfg.frac * 2 ^ s.cfg.frac)) →
        exec i s = .next
          { s with
            pos := p (k + 1), time := s.time + k * s.period, pending := true
            susp := some ⟨kind, e, steps, ⟨s.time + k * s.period, amps, edge⟩⟩
            out := s.out ++ [.boundaryRequest edge (Int.floor ((p (k + 1) : ℚ) / 2 ^ s.cfg.frac))] }

/-- BOUNDARY_REPLY with a legal policy `p` (R322, R323, R608): it answers 0 first, and the suspended command goes on from the
saved step, `u` being the state with the policy applied and that step's period added (R320 item 4). Where none of the `k`
steps still due raises a request, the command completes: its steps are the saved ones, the one in progress and those `k`;
each channel sends its level changes over all of them, END's shift is taken off the time (R270, R71), and the command's own
response is last. Where the step after `m` whole ones raises one, the command waits again with its steps so far, and has
sent nothing. NONE always completes it, halted (R308, R305). -/
def Obligations.ReplyResumes : Prop :=
  ∀ (s u : State) (q : Susp) (p : Policy) (k : Nat) (rs : List StepRecord), s.Inv → s.HostDuty → s.susp = some q →
    u = { applyPolicy p { s with pending := false, susp := none } with time := s.time + s.period } →
    rs = q.steps ++ [⟨q.cur.time, q.cur.amps⟩] → k = Nat.ceil (((q.endTime : ℚ) - u.time) / u.period) →
    (u.NoRequestBefore k → ∃ t, exec (.boundaryReply p.code) s = .next t ∧
      t = { stepState k u with time := u.time + k * u.period - q.kind.shift, last := t.last, out := t.out } ∧
      t.out = s.out ++ [.response 0 none] ++
        ((List.range s.nch).flatMap fun c => recordChanges s c (rs ++ recordsBefore u k)).map .sink ++ [.response 0 none] ∧
      ∀ c < s.cfg.maxChannels, t.lastAt c =
        if c < s.nch then recordBefore s c (rs ++ recordsBefore u k) (rs.length + k) else s.lastAt c) ∧
    (∀ (m : Nat) (v : State) (e : Edge), m < k → u.NoRequestBefore m → advance (stepState m u) = .request v e →
      exec (.boundaryReply p.code) s = .next
        { v with
          pending := true
          susp := some ⟨q.kind, q.endTime, rs ++ recordsBefore u m, ⟨(recordAt u m).time, (recordAt u m).amps, e⟩⟩
          out := s.out ++ [.response 0 none, .boundaryRequest e (Int.floor ((v.pos : ℚ) / 2 ^ s.cfg.frac))] }) ∧
    (p = .none → u.NoRequestBefore k ∧ (stepState k u).halted = true ∧ (stepState k u).pos = s.pos ∧
      (stepState k u).dir = s.dir)

/-- The host's answers act as the policy of `sampleRepeat` does (R307, R320 item 4, R321): a RUN or END that suspends, once
or more, and whose every request is answered `p`, ends as the same command with the callback off and the policy `p`, END's
shift included (R270), with the same transactions. -/
def Obligations.HostAnswerActsAsPolicy : Prop :=
  ∀ (s t u : State) (i : Instr) (e n : Nat) (p : Policy), s.Inv → s.HostDuty → s.pending = false →
    i = .run e ∨ i = .endChunk e → exec i s = .next t → 0 < n →
    (∀ m < n, ∀ r, answered p m t = .next r → r.pending = true) → answered p n t = .next u → u.pending = false →
    ∃ v, exec i { s with sampleCallback := false, sampleRepeat := p } = .next v ∧ sinkTxs v.out = sinkTxs u.out ∧
      v = { u with sampleCallback := false, sampleRepeat := p, out := v.out }

/-- While a request is pending, every command but GET_ATTR, GET_PTR and BOUNDARY_REPLY answers INVALID_STATE and changes
nothing (R612); so does an unlisted or read-only key on SET_ATTR, SET_PTR or DATA_NOTIFY, while on GET_ATTR and GET_PTR an
unlisted key answers INVALID_ATTRIBUTE still (R610 items 2 and 3). -/
def Obligations.PendingRefusesOtherCommands : Prop :=
  ∀ s : State, s.pending = true →
    (∀ i : Instr, performedWhilePending i = false → exec i s = .next (s.respond .invalidState)) ∧
    ∀ (why : Illegal) (rest : List Word), decode s.cmd = .illegal why rest →
      (∀ op, why = .unlistedKey op → op = 1 ∨ op = 3 ∨ op = 10 →
        step s = .next (State.emit { s with cmd := rest } [.response 0xFFFFFFFC none])) ∧
      (why = .readOnlyKey → step s = .next (State.emit { s with cmd := rest } [.response 0xFFFFFFFC none])) ∧
      ∀ op, why = .unlistedKey op → op = 2 ∨ op = 4 →
        step s = .next (State.emit { s with cmd := rest } [.response 0xFFFFFFFE (some 0)])

/-! ### Rules of the whole machine -/

/-- A command that answers an error changes nothing (R601): the state differs by the words of that one command taken and the
answer alone, so nothing goes to the sink; the answer carries a value word on GET_ATTR and GET_PTR alone, and it is 0. -/
def Obligations.FailedCommandChangesNothing : Prop :=
  ∀ (s t : State) (es : List PortEvent) (w : Word) (v : Option Word), step s = .next t → t.out = s.out ++ es →
    PortEvent.response w v ∈ es → w ≠ 0 →
    ∃ h tail, s.cmd = h :: tail ∧
      t = { s with cmd := tail.drop (wordsOfOp (h.toNat / 2 ^ 28) - 1), out := s.out ++ [.response w v] } ∧
      v = if h.toNat / 2 ^ 28 = 2 ∨ h.toNat / 2 ^ 28 = 4 then some 0 else none

/-- Each command answers 0 or a code R602 (inferred) lists for it; an illegal encoding answers INVALID_STATE or INVALID_ATTRIBUTE and
nothing else; so ALLOCATION and INVALID_NUM_BITS are never answered (R603). -/
def Obligations.OnlyListedStatusCodes : Prop :=
  (∀ (s t : State) (i : Instr), exec i s = .next t → ∃ es, t.out = s.out ++ es ∧
    ∀ w v, PortEvent.response w v ∈ es → w = 0 ∨ w ∈ (failures i).map Status.word) ∧
  (∀ (s : State) (why : Illegal) (rest : List Word), decode s.cmd = .illegal why rest →
    ∃ w v, step s = .next (State.emit { s with cmd := rest } [.response w v]) ∧
      (w = Status.invalidState.word ∨ w = Status.invalidAttribute.word)) ∧
  ∀ s t : State, step s = .next t → ∃ es, t.out = s.out ++ es ∧
    ∀ w v, PortEvent.response w v ∈ es → w ≠ Status.allocation.word ∧ w ≠ Status.invalidNumBits.word

/-- R50, the column *written by*: a command leaves every field alone that it is not listed to write; no command writes
the configuration (R74). -/
def Obligations.CommandsWriteOnlyTheirFields : Prop :=
  ∀ (s t : State) (i : Instr) (f : StateField), exec i s = .next t → f ∉ writes i → f.same s t

/-- The lifecycle (R355, inferred): attachment changes by ATTACH and DETACH alone, a request arises only inside a RUN, END or resumed
command, of an attached oscillator, and goes away only by a BOUNDARY_REPLY. -/
def Obligations.LifecycleMoves : Prop :=
  ∀ (s t : State) (i : Instr), s.Inv → exec i s = .next t →
    (t.attached ≠ s.attached → (∃ n, i = .attach n) ∧ s.attached = false ∨ i = .detach ∧ s.attached = true) ∧
    (s.pending = false → t.pending = true → ((∃ e, i = .run e) ∨ ∃ e, i = .endChunk e) ∧ t.attached = true) ∧
    (s.pending = true → t.pending = false → ∃ p : Policy, i = .boundaryReply p.code)

/-- The oscillator never writes data memory (R105): every byte of every object, and every shape, reads as before. -/
def Obligations.StepNeverWritesDataMemory : Prop :=
  ∀ s t : State, step s = .next t → ∀ h a, t.dataByte h a = s.dataByte h a ∧ dataShape t h = dataShape s h

/-- The host changes one frame value (R106, R103): that frame reads the new value, in two bytes, the low one first, at
`2 * (i * K + k)`; every other frame and byte reads as before, every shape stays, so the duty and the invariant stay. Another
object of the same counts put behind a handle is not seen: every amplitude stays as it was, until DATA_NOTIFY (R125;
NotifyReplacedRevalidates and DataAmplitudes say what is read from then on). -/
def Obligations.HostFrameChangeIsSeen : Prop :=
  (∀ (s : State) (h c : Nat) (o : DataObject), dataShape s h = some o.shape →
    amplitude (s.provideObject h o) c = amplitude s c ∧ dataShape (s.provideObject h o) h = some o.shape) ∧
  ∀ (s t : State) (o : DataObject) (h i k : Nat) (v : Int), dataWf s.data → findObject s.data h = some o →
    i < o.frames → k < o.channels → -32768 ≤ v → v ≤ 32767 → t = s.changeFrame h i k v →
    dataFrame t h i k = some v ∧
    (∀ j l, l < o.channels → (j, l) ≠ (i, k) → dataFrame t h j l = dataFrame s h j l) ∧
    (∀ g, g ≠ h → ∀ a, t.dataByte g a = s.dataByte g a) ∧
    (t.dataByte h (2 * (i * o.channels + k)) = some (BitVec.ofInt 8 v) ∧
      t.dataByte h (2 * (i * o.channels + k) + 1) = some (BitVec.ofInt 8 (v / 256))) ∧
    (∀ a, a ≠ 2 * (i * o.channels + k) → a ≠ 2 * (i * o.channels + k) + 1 → t.dataByte h a = s.dataByte h a) ∧
    (∀ g, dataShape t g = dataShape s g) ∧ (s.HostDuty → t.HostDuty) ∧ (FrameValue s.cfg v → s.Inv → t.Inv)

/-- The sink (R111, inferred): the cells of a channel depend only on the multiset of transactions sent to that channel; an
AddPulse adds the coefficients of its phase, by `Kmul`, from the whole sample of its time on, and the coefficients of every
phase sum to unity (R112); an AddFrame adds its delta at that sample (R113). -/
def Obligations.SinkDependsOnTheMultiset : Prop :=
  (∀ (p : Config.Params) (xs ys : List SinkTx) (c n : Nat), (channelOnly c xs).Perm (channelOnly c ys) →
    sinkCell p xs c n = sinkCell p ys c n) ∧
  (∀ (p : Config.Params) (xs : List SinkTx) (c t n : Nat) (d : Int),
    sinkCell p (xs ++ [⟨.addPulse, c, t, d⟩]) c n = sinkCell p xs c n +
      if t / 2 ^ p.frac ≤ n ∧ n < t / 2 ^ p.frac + Config.stepWidth then
        Config.kmul (Config.kernel (t % 2 ^ p.frac * Config.stepUnit / 2 ^ p.frac) (n - t / 2 ^ p.frac)) d
      else 0) ∧
  (∀ (p : Config.Params) (t : Nat), t % 2 ^ p.frac * Config.stepUnit / 2 ^ p.frac < Config.stepUnit) ∧
  (∀ ph, ((List.range Config.stepWidth).map (Config.kernel ph)).sum = Config.kernelUnity) ∧
  ∀ (p : Config.Params) (xs : List SinkTx) (c t n : Nat) (d : Int),
    sinkCell p (xs ++ [⟨.addFrame, c, t, d⟩]) c n = sinkCell p xs c n + if n = t / 2 ^ p.frac then d else 0
end

