-- ==== Sys2Proof/Laws/Codec.lean ====
section
/-! SUPPORT. The fields of a header written from its fields, and operands read from the words written for them
(30_encoding.md R151, R156). -/

namespace Sys2Proof

/-- A header's number. -/
theorem mkHeader_toNat (op key rsv : Nat) (ho : op < 16) (hk : key < 256) (hr : rsv < 1048576) :
    (mkHeader op key rsv).toNat = op * 268435456 + key * 1048576 + rsv := by
  unfold mkHeader
  rw [BitVec.toNat_ofNat]
  norm_num
  omega

/-- The operation of a header written. -/
@[simp] theorem headerOp_mkHeader (op key rsv : Nat) (ho : op < 16) (hk : key < 256) (hr : rsv < 1048576) :
    headerOp (mkHeader op key rsv) = op := by
  unfold headerOp
  rw [BitVec.extractLsb'_toNat, mkHeader_toNat op key rsv ho hk hr, Nat.shiftRight_eq_div_pow]
  norm_num
  omega

/-- The key of a header written. -/
@[simp] theorem headerKey_mkHeader (op key rsv : Nat) (ho : op < 16) (hk : key < 256) (hr : rsv < 1048576) :
    headerKey (mkHeader op key rsv) = key := by
  unfold headerKey
  rw [BitVec.extractLsb'_toNat, mkHeader_toNat op key rsv ho hk hr, Nat.shiftRight_eq_div_pow]
  norm_num
  omega

/-- The reserved field of a header written. -/
@[simp] theorem headerRsv_mkHeader (op key rsv : Nat) (ho : op < 16) (hk : key < 256) (hr : rsv < 1048576) :
    headerRsv (mkHeader op key rsv) = rsv := by
  unfold headerRsv
  rw [BitVec.extractLsb'_toNat, mkHeader_toNat op key rsv ho hk hr, Nat.shiftRight_eq_div_pow]
  norm_num
  omega

/-- A header's fields are in range. -/
theorem header_ranges (h : Word) : headerOp h < 16 ∧ headerKey h < 256 ∧ headerRsv h < 1048576 := by
  refine ⟨?_, ?_, ?_⟩
  · exact (h.extractLsb' 28 4).isLt
  · exact (h.extractLsb' 20 8).isLt
  · exact (h.extractLsb' 0 20).isLt

/-- An int32 operand reads as written. -/
@[simp] theorem operandInt_wordOfInt (v : Int) (h : -2 ^ 31 ≤ v ∧ v < 2 ^ 31) : operandInt (wordOfInt v) = v := by
  unfold operandInt wordOfInt
  rw [BitVec.toInt_ofInt]
  norm_num at h
  exact Int.bmod_eq_of_le (by norm_num; omega) (by norm_num; omega)

/-- A uint32 operand reads as written. -/
@[simp] theorem operandNat_wordOfNat (v : Nat) (h : v < 2 ^ 32) : operandNat (wordOfNat v) = v := by
  unfold operandNat wordOfNat
  rw [BitVec.toNat_ofNat]
  exact Nat.mod_eq_of_lt h

/-- A uint64 operand reads as written, low word first. -/
@[simp] theorem operandTime_wordsOfTime (t : Nat) (h : t < 2 ^ 64) :
    operandTime (BitVec.ofNat 32 t) (BitVec.ofNat 32 (t / 2 ^ 32)) = t := by
  unfold operandTime
  rw [BitVec.toNat_ofNat, BitVec.toNat_ofNat]
  norm_num at h ⊢
  omega

/-- A command's encoding starts with a header whose operation gives its length (R152, R153). -/
abbrev HasHeaderLength (ws : List Word) : Prop := ∃ h tail, ws = h :: tail ∧ tail.length + 1 = wordsOfOp (headerOp h)

/-- One word. -/
theorem hasHeaderLength_one (op key rsv : Nat) (ho : op < 16) (hk : key < 256) (hr : rsv < 1048576)
    (hw : wordsOfOp op = 1) : HasHeaderLength [mkHeader op key rsv] :=
  ⟨_, [], rfl, by rw [headerOp_mkHeader op key rsv ho hk hr, hw]; rfl⟩

/-- Two words. -/
theorem hasHeaderLength_two (op key : Nat) (w : Word) (ho : op < 16) (hk : key < 256) (hw : wordsOfOp op = 2) :
    HasHeaderLength [mkHeader op key 0, w] :=
  ⟨_, [w], rfl, by rw [headerOp_mkHeader op key 0 ho hk (by omega), hw]; rfl⟩

/-- Three words. -/
theorem hasHeaderLength_three (op : Nat) (t : Nat) (ho : op < 16) (hw : wordsOfOp op = 3) :
    HasHeaderLength (mkHeader op 0 0 :: wordsOfTime t) :=
  ⟨_, wordsOfTime t, rfl, by rw [headerOp_mkHeader op 0 0 ho (by omega) (by omega), hw]; rfl⟩

end Sys2Proof
end

