-- ==== Sys2Proof/Laws/Memory.lean ====
section
/-! SUPPORT. The data memory: reading after writing, and the canonical form, which every memory operation keeps
(20_memory.md R101, R103; log 6). -/

namespace Sys2Proof.Machine

/-! ### Bytes -/

/-- The address written reads as written. -/
@[simp] theorem readByte_writeByte_same (m : Memory) (a : Nat) (v : BitVec 8) (h : m.Pairwise fun x y => x.1 < y.1) :
    readByte (writeByte m a v) a = v := by
  induction m with
  | nil => by_cases hv : v = unlistedByte <;> simp [writeByte, readByte, hv]
  | cons x m ih =>
    obtain ⟨b, w⟩ := x
    have hm := (List.pairwise_cons.1 h).2
    have hb := (List.pairwise_cons.1 h).1
    have hno : ∀ m' : Memory, (∀ y ∈ m', a < y.1) → readByte m' a = unlistedByte := by
      intro m'
      induction m' with
      | nil => intro _; rfl
      | cons y m' ih' =>
        intro hy
        have h1 : y.1 ≠ a := by have := hy y (by simp); omega
        obtain ⟨c, u⟩ := y
        simp only [readByte]
        rw [if_neg h1]
        exact ih' fun z hz => hy z (by simp [hz])
    unfold writeByte
    by_cases h1 : a < b
    · rw [if_pos h1]
      by_cases hv : v = unlistedByte
      · rw [if_pos hv, hv]
        refine hno _ fun y hy => ?_
        rcases List.mem_cons.1 hy with rfl | hy
        · exact h1
        · have := hb y hy; simp only at this; omega
      · simp [hv, readByte]
    · rw [if_neg h1]
      by_cases h2 : a = b
      · subst h2
        rw [if_pos rfl]
        by_cases hv : v = unlistedByte
        · rw [if_pos hv, hv]
          exact hno _ fun y hy => hb y hy
        · simp [hv, readByte]
      · rw [if_neg h2]
        have h3 : b ≠ a := fun e => h2 e.symm
        simp only [readByte]
        rw [if_neg h3]
        exact ih hm

/-- Every other address reads as before. -/
theorem readByte_writeByte_other (m : Memory) (a c : Nat) (v : BitVec 8) (h : m.Pairwise fun x y => x.1 < y.1)
    (hc : c ≠ a) : readByte (writeByte m a v) c = readByte m c := by
  induction m with
  | nil => by_cases hv : v = unlistedByte <;> simp [writeByte, readByte, hv, Ne.symm hc]
  | cons x m ih =>
    obtain ⟨b, w⟩ := x
    have hm := (List.pairwise_cons.1 h).2
    unfold writeByte
    by_cases h1 : a < b
    · rw [if_pos h1]
      by_cases hv : v = unlistedByte
      · rw [if_pos hv]
      · rw [if_neg hv, readByte, if_neg (Ne.symm hc)]
    · rw [if_neg h1]
      by_cases h2 : a = b
      · subst h2
        rw [if_pos rfl]
        by_cases hv : v = unlistedByte
        · rw [if_pos hv, readByte, if_neg (Ne.symm hc)]
        · rw [if_neg hv, readByte, readByte, if_neg (Ne.symm hc), if_neg (Ne.symm hc)]
      · rw [if_neg h2, readByte, readByte, ih hm]

/-- Which entries a write leaves: the old ones and the one written. -/
theorem mem_writeByte (m : Memory) (a : Nat) (v : BitVec 8) (x : Host.Cell) (h : x ∈ writeByte m a v) :
    x ∈ m ∨ (x = (a, v) ∧ v ≠ unlistedByte) := by
  induction m with
  | nil =>
    by_cases hv : v = unlistedByte
    · simp [writeByte, hv] at h
    · simp only [writeByte, if_neg hv, List.mem_singleton] at h; exact .inr ⟨h, hv⟩
  | cons y m ih =>
    obtain ⟨b, w⟩ := y
    unfold writeByte at h
    split at h
    · split at h
      · exact .inl h
      · rename_i hv
        rcases List.mem_cons.1 h with h | h
        · exact .inr ⟨h, hv⟩
        · exact .inl h
    · split at h
      · split at h
        · exact .inl (List.mem_cons_of_mem _ h)
        · rename_i hv
          rcases List.mem_cons.1 h with h | h
          · exact .inr ⟨h, hv⟩
          · exact .inl (List.mem_cons_of_mem _ h)
      · rcases List.mem_cons.1 h with h | h
        · exact .inl (by simp [h])
        · rcases ih h with h | h
          · exact .inl (List.mem_cons_of_mem _ h)
          · exact .inr h

/-- A write keeps the canonical form. -/
theorem writeByte_wf (m : Memory) (a : Nat) (v : BitVec 8) (h : Memory.wf m) : Memory.wf (writeByte m a v) := by
  refine ⟨?_, fun x hx => ?_⟩
  · obtain ⟨hp, -⟩ := h
    induction m with
    | nil => unfold writeByte; split <;> simp
    | cons y m ih =>
      obtain ⟨b, w⟩ := y
      have hb := (List.pairwise_cons.1 hp).1
      have hm := (List.pairwise_cons.1 hp).2
      unfold writeByte
      split
      · split
        · exact hp
        · refine List.pairwise_cons.2 ⟨fun z hz => ?_, hp⟩
          rcases List.mem_cons.1 hz with rfl | hz
          · assumption
          · have := hb z hz; simp only at this ⊢; omega
      · split
        · subst_vars
          split
          · exact hm
          · exact List.pairwise_cons.2 ⟨hb, hm⟩
        · refine List.pairwise_cons.2 ⟨fun z hz => ?_, ih hm⟩
          rcases mem_writeByte m a v z hz with hz | ⟨rfl, -⟩
          · exact hb z hz
          · simp only; omega
  · rcases mem_writeByte m a v x hx with hx | ⟨rfl, hv⟩
    · exact h.2 x hx
    · exact hv

/-! ### Frames -/

/-- Storing a frame keeps the object's shape. -/
@[simp] theorem writeObjectFrame_shape (o : DataObject) (i k : Nat) (v : Int) :
    (writeObjectFrame o i k v).frames = o.frames ∧ (writeObjectFrame o i k v).channels = o.channels := ⟨rfl, rfl⟩

/-- Storing a frame inside the object keeps the port's contract. -/
theorem writeObjectFrame_wf (o : DataObject) (i k : Nat) (v : Int) (h : o.wf) (hi : i < o.frames) (hk : k < o.channels) :
    (writeObjectFrame o i k v).wf := by
  obtain ⟨h1, h2, h3, h4⟩ := h
  refine ⟨h1, h2, writeByte_wf _ _ _ (writeByte_wf _ _ _ h3), fun b hb => ?_⟩
  have hin : frameOffset o.channels i k + 1 < 2 * (o.frames * o.channels) := by
    unfold frameOffset
    have : i * o.channels + o.channels ≤ o.frames * o.channels := by
      rw [← Nat.succ_mul]; exact Nat.mul_le_mul_right _ hi
    omega
  show b.1 < 2 * (o.frames * o.channels)
  rcases mem_writeByte _ _ _ _ hb with hb | ⟨rfl, -⟩
  · rcases mem_writeByte _ _ _ _ hb with hb | ⟨rfl, -⟩
    · exact h4 b hb
    · simp only; omega
  · exact hin

/-- A stored frame reads as stored: two bytes, the low one at the lower address (R103). -/
theorem objectFrame_writeObjectFrame_same (o : DataObject) (i k : Nat) (v : Int) (h : Memory.wf o.bytes)
    (hv : -2 ^ 15 ≤ v ∧ v < 2 ^ 15) : objectFrame (writeObjectFrame o i k v) i k = v := by
  unfold objectFrame writeObjectFrame
  have hw := writeByte_wf o.bytes (frameOffset o.channels i k) ((BitVec.ofInt 16 v).extractLsb' 0 8) h
  simp only
  rw [readByte_writeByte_same _ _ _ hw.1, readByte_writeByte_other _ _ _ _ hw.1 (by omega),
    readByte_writeByte_same _ _ _ h.1]
  have : (BitVec.ofInt 16 v).extractLsb' 8 8 ++ (BitVec.ofInt 16 v).extractLsb' 0 8 = BitVec.ofInt 16 v := by
    apply BitVec.eq_of_getLsbD_eq
    intro j hj
    simp only [BitVec.getLsbD_append, BitVec.getLsbD_extractLsb']
    by_cases h8 : j < 8
    · simp [h8]
    · simp [h8, show j - 8 < 8 by omega, show 8 + (j - 8) = j by omega]
  rw [this, BitVec.toInt_ofInt]
  have e : (2 : Int) ^ 15 = 32768 := by norm_num
  rw [e] at hv
  exact Int.bmod_eq_of_le (by norm_num; omega) (by norm_num; omega)

/-- Every other frame of the object reads as before. -/
theorem objectFrame_writeObjectFrame_other (o : DataObject) (i k j l : Nat) (v : Int) (h : Memory.wf o.bytes)
    (hk : k < o.channels) (hl : l < o.channels) (hne : (j, l) ≠ (i, k)) :
    objectFrame (writeObjectFrame o i k v) j l = objectFrame o j l := by
  have hoff : j * o.channels + l ≠ i * o.channels + k := by
    intro e
    have hj : j = i := by
      have h1 := Nat.div_add_mod (j * o.channels + l) o.channels
      have h2 : (j * o.channels + l) / o.channels = j := by
        rw [Nat.mul_comm, Nat.mul_add_div (by omega), Nat.div_eq_of_lt hl]; rfl
      have h3 : (i * o.channels + k) / o.channels = i := by
        rw [Nat.mul_comm, Nat.mul_add_div (by omega), Nat.div_eq_of_lt hk]; rfl
      rw [← h2, ← h3, e]
    subst hj
    exact hne (by simp; omega)
  unfold objectFrame writeObjectFrame
  have hw := writeByte_wf o.bytes (frameOffset o.channels i k) ((BitVec.ofInt 16 v).extractLsb' 0 8) h
  simp only [frameOffset] at hw ⊢
  rw [readByte_writeByte_other _ _ _ _ hw.1 (by omega), readByte_writeByte_other _ _ _ _ h.1 (by omega),
    readByte_writeByte_other _ _ _ _ hw.1 (by omega), readByte_writeByte_other _ _ _ _ h.1 (by omega)]

/-- A frame is a signed 16-bit integer (R102). -/
theorem objectFrame_range (o : DataObject) (i k : Nat) :
    -2 ^ 15 ≤ objectFrame o i k ∧ objectFrame o i k < 2 ^ 15 := by
  unfold objectFrame
  have h1 := BitVec.le_toInt (readByte o.bytes (frameOffset o.channels i k + 1) ++ readByte o.bytes (frameOffset o.channels i k))
  have h2 := BitVec.toInt_lt (x := readByte o.bytes (frameOffset o.channels i k + 1) ++ readByte o.bytes (frameOffset o.channels i k))
  norm_num at h1 h2 ⊢
  omega

/-! ### Objects -/

/-- The handle written names the object written. -/
@[simp] theorem findObject_insertObject_same (d : List DataEntry) (h : Nat) (o : DataObject) (hh : h ≠ 0) :
    findObject (insertObject d h o) h = some o := by
  induction d with
  | nil => simp [insertObject, findObject, hh]
  | cons e d ih =>
    unfold insertObject
    by_cases h1 : h < e.handle
    · simp [h1, findObject, hh]
    · by_cases h2 : h = e.handle
      · simp [h2, findObject]; omega
      · simp [h1, h2, findObject, ih, Ne.symm h2]

/-- Every other handle names what it named. -/
theorem findObject_insertObject_other (d : List DataEntry) (h g : Nat) (o : DataObject) (hg : g ≠ h) :
    findObject (insertObject d h o) g = findObject d g := by
  induction d with
  | nil => simp [insertObject, findObject, Ne.symm hg]
  | cons e d ih =>
    unfold insertObject
    by_cases h1 : h < e.handle
    · simp [h1, findObject, Ne.symm hg]
    · by_cases h2 : h = e.handle
      · subst h2
        simp [findObject, Ne.symm hg]
      · simp [h1, h2, findObject, ih]

/-- Which entries an insertion leaves. -/
theorem mem_insertObject (d : List DataEntry) (h : Nat) (o : DataObject) (e : DataEntry) (he : e ∈ insertObject d h o) :
    e ∈ d ∨ e = ⟨h, o⟩ := by
  induction d with
  | nil => simpa [insertObject] using he
  | cons x d ih =>
    unfold insertObject at he
    split at he
    · rcases List.mem_cons.1 he with he | he
      · exact .inr he
      · exact .inl he
    · split at he
      · rcases List.mem_cons.1 he with he | he
        · exact .inr he
        · exact .inl (List.mem_cons_of_mem _ he)
      · rcases List.mem_cons.1 he with he | he
        · exact .inl (by simp [he])
        · rcases ih he with he | he
          · exact .inl (List.mem_cons_of_mem _ he)
          · exact .inr he

/-- Providing an object keeps the port's contract. -/
theorem insertObject_wf (d : List DataEntry) (h : Nat) (o : DataObject) (hd : dataWf d) (hh : 0 < h ∧ h < 2 ^ 32)
    (ho : o.wf) : dataWf (insertObject d h o) := by
  refine ⟨?_, fun e he => ?_⟩
  · obtain ⟨hp, -⟩ := hd
    induction d with
    | nil => simp [insertObject]
    | cons x d ih =>
      have hx := (List.pairwise_cons.1 hp).1
      have hd := (List.pairwise_cons.1 hp).2
      unfold insertObject
      split
      · refine List.pairwise_cons.2 ⟨fun z hz => ?_, hp⟩
        rcases List.mem_cons.1 hz with rfl | hz
        · assumption
        · have := hx z hz; simp only at this ⊢; omega
      · split
        · subst_vars
          exact List.pairwise_cons.2 ⟨hx, hd⟩
        · refine List.pairwise_cons.2 ⟨fun z hz => ?_, ih hd⟩
          rcases mem_insertObject d h o z hz with hz | rfl
          · exact hx z hz
          · simp only; omega
  · rcases mem_insertObject d h o e he with he | rfl
    · exact hd.2 e he
    · exact ⟨hh, ho⟩

/-- Disposing an object keeps the port's contract. -/
theorem removeObject_wf (d : List DataEntry) (h : Nat) (hd : dataWf d) : dataWf (removeObject d h) :=
  ⟨hd.1.filter _, fun e he => hd.2 e (List.mem_filter.1 he).1⟩

/-- A handle disposed names nothing. -/
@[simp] theorem findObject_removeObject (d : List DataEntry) (h : Nat) : findObject (removeObject d h) h = none := by
  induction d with
  | nil => rfl
  | cons e d ih =>
    unfold removeObject at ih ⊢
    rw [List.filter_cons]
    by_cases he : e.handle = h
    · rw [if_neg (by simp [he])]; exact ih
    · rw [if_pos (by simp [he]), findObject, if_neg (fun hc => he hc.1)]; exact ih

/-- What a live handle names is one of the objects, and is live. -/
theorem findObject_mem (d : List DataEntry) (h : Nat) (o : DataObject) (hf : findObject d h = some o) :
    h ≠ 0 ∧ ∃ e ∈ d, e.handle = h ∧ e.object = o := by
  induction d with
  | nil => simp [findObject] at hf
  | cons e d ih =>
    unfold findObject at hf
    split at hf
    · rename_i hc
      exact ⟨hc.2, e, by simp, hc.1, by simpa using hf⟩
    · obtain ⟨h0, e', he', h1, h2⟩ := ih hf
      exact ⟨h0, e', List.mem_cons_of_mem _ he', h1, h2⟩

/-- The port's answer for a live handle keeps the contract of R101. -/
theorem dataShape_spec (s : State) (h : Nat) (sh : Shape) (hs : dataShape s h = some sh) (hd : dataWf s.data) :
    (0 < h ∧ h < 2 ^ 32) ∧ sh.frames < 2 ^ 32 ∧ 1 ≤ sh.channels := by
  unfold dataShape at hs
  cases hf : findObject s.data h with
  | none => simp [hf] at hs
  | some o =>
    rw [hf] at hs
    obtain ⟨-, e, he, rfl, rfl⟩ := findObject_mem _ _ _ hf
    obtain ⟨hh, hw⟩ := hd.2 e he
    simp only [Option.map_some, Option.some.injEq] at hs
    subst hs
    exact ⟨hh, hw.1, hw.2.1⟩

/-! ### A step's read -/

/-- The object a step reads is the one the handle names, or the one it named when it was validated (R125). -/
theorem heldObject_cases (s : State) (h : Nat) (held : Shape) (id : Identity) (o : DataObject)
    (ho : heldObject s h held id = some o) : findObject s.data h = some o ∨ id = .replaced o := by
  unfold heldObject at ho
  split at ho
  · split at ho
    · exact .inl ho
    · cases ho; exact .inr rfl
    · cases ho
  · cases ho

/-- There is none exactly where the host broke its duty (R605); else it has the counts validated. -/
theorem heldObject_spec (s : State) (h : Nat) (held : Shape) (id : Identity) (hid : ∀ o ∈ id.former, o.shape = held) :
    (heldObject s h held id = none ∧ ¬ (dataShape s h = some held ∧ id ≠ .disposed)) ∨
    (dataShape s h = some held ∧ ∃ o, heldObject s h held id = some o ∧ o.shape = held) := by
  unfold heldObject
  by_cases h1 : dataShape s h = some held
  · rw [if_pos h1]
    cases id with
    | same =>
      refine .inr ⟨h1, ?_⟩
      unfold dataShape at h1
      cases hf : findObject s.data h with
      | none => rw [hf] at h1; cases h1
      | some o => rw [hf] at h1; exact ⟨o, rfl, by simpa using h1⟩
    | replaced o => exact .inr ⟨h1, o, rfl, hid o (by simp [Identity.former])⟩
    | disposed => exact .inl ⟨rfl, by simp⟩
  · exact .inl ⟨if_neg h1, fun hc => h1 hc.1⟩

/-- What a read of a frame comes to: one of the two faults, or a frame of the object held, in range (R605, R104). -/
theorem readFrame_cases (s : State) (h : Nat) (held : Shape) (id : Identity) (i : Int) (k : Nat)
    (hid : ∀ o ∈ id.former, o.shape = held) :
    (readFrame s h held id i k = .error (.dataShapeChanged s.out) ∧ ¬ (dataShape s h = some held ∧ id ≠ .disposed)) ∨
    (dataShape s h = some held ∧
      ((readFrame s h held id i k = .error (.frameOutOfRange s.out) ∧
          (i < 0 ∨ (held.frames : Int) ≤ i ∨ held.channels ≤ k)) ∨
        ∃ v, readFrame s h held id i k = .ok v)) := by
  unfold readFrame
  rcases heldObject_spec s h held id hid with ⟨h1, h2⟩ | ⟨h2, o, h1, rfl⟩
  · exact .inl ⟨by rw [h1], h2⟩
  · refine .inr ⟨h2, ?_⟩
    rw [h1]
    simp only
    by_cases h3 : 0 ≤ i ∧ i.toNat < o.frames ∧ k < o.channels
    · exact .inr ⟨_, if_pos h3⟩
    · exact .inl ⟨if_neg h3, by omega⟩

/-- What the port answers for a frame is a signed 16-bit integer (R102). -/
theorem dataFrame_range (s : State) (h i k : Nat) (v : Int) (hr : dataFrame s h i k = some v) :
    -2 ^ 15 ≤ v ∧ v < 2 ^ 15 := by
  unfold dataFrame at hr
  split at hr
  · cases hr
  · split at hr
    · cases hr; exact objectFrame_range _ _ _
    · cases hr

/-- A read that succeeds is a frame of the object held, in range. -/
theorem readFrame_ok (s : State) (h : Nat) (held : Shape) (id : Identity) (i : Int) (k : Nat) (v : Int)
    (hr : readFrame s h held id i k = .ok v) :
    ∃ o, heldObject s h held id = some o ∧ (0 ≤ i ∧ i.toNat < o.frames ∧ k < o.channels) ∧ objectFrame o i.toNat k = v := by
  unfold readFrame at hr
  cases ho : heldObject s h held id with
  | none => rw [ho] at hr; cases hr
  | some o =>
    rw [ho] at hr
    simp only at hr
    split at hr
    · rename_i h3
      cases hr
      exact ⟨o, rfl, h3, rfl⟩
    · cases hr

end Sys2Proof.Machine
end

