-- ==== Sys2Proof/Laws/PerInstr.lean ====
section
/-! SUPPORT. Facts about instructions as syntax, one lemma per constructor. Family `EncodedLength`: a well-formed command
encodes to as many words as its header's operation gives (30_encoding.md R152, R153). -/

/-- A well-formed command's words start with a header, and there are as many as its operation has. -/
def Sys2Proof.Laws.EncodedLength.Statement (i : Sys2Proof.Instr) : Prop :=
  i.wellFormed = true → Sys2Proof.HasHeaderLength (Sys2Proof.encode i)

namespace Sys2Proof.Laws.EncodedLength

theorem setAttrWaveform (v : Int) : Statement (.setAttrWaveform v) :=
  fun _ => hasHeaderLength_two 0x1 0x01 _ (by decide) (by decide) rfl

theorem setAttrDutyCycle (v : Int) : Statement (.setAttrDutyCycle v) :=
  fun _ => hasHeaderLength_two 0x1 0x02 _ (by decide) (by decide) rfl

theorem setAttrPeriod (v : Int) : Statement (.setAttrPeriod v) :=
  fun _ => hasHeaderLength_two 0x1 0x03 _ (by decide) (by decide) rfl

theorem setAttrPhase (v : Int) : Statement (.setAttrPhase v) :=
  fun _ => hasHeaderLength_two 0x1 0x04 _ (by decide) (by decide) rfl

theorem setAttrVolume (v : Int) : Statement (.setAttrVolume v) :=
  fun _ => hasHeaderLength_two 0x1 0x06 _ (by decide) (by decide) rfl

theorem setAttrVolumeN (n : Nat) (v : Int) : Statement (.setAttrVolumeN n v) := by
  intro h
  simp only [Instr.wellFormed, fitsChannel, Bool.and_eq_true, decide_eq_true_eq] at h
  exact hasHeaderLength_two 0x1 (0x10 + n) _ (by omega) (by omega) rfl

theorem setAttrSampleOffset (v : Int) : Statement (.setAttrSampleOffset v) :=
  fun _ => hasHeaderLength_two 0x1 0x20 _ (by decide) (by decide) rfl

theorem setAttrSampleEnd (v : Int) : Statement (.setAttrSampleEnd v) :=
  fun _ => hasHeaderLength_two 0x1 0x21 _ (by decide) (by decide) rfl

theorem setAttrSamplePeriod (v : Int) : Statement (.setAttrSamplePeriod v) :=
  fun _ => hasHeaderLength_two 0x1 0x22 _ (by decide) (by decide) rfl

theorem setAttrSampleRepeat (v : Int) : Statement (.setAttrSampleRepeat v) :=
  fun _ => hasHeaderLength_two 0x1 0x23 _ (by decide) (by decide) rfl

theorem setAttrSampleCallback (v : Int) : Statement (.setAttrSampleCallback v) :=
  fun _ => hasHeaderLength_two 0x1 0x24 _ (by decide) (by decide) rfl

theorem getAttrWaveform : Statement .getAttrWaveform :=
  fun _ => hasHeaderLength_one 0x2 0x01 0 (by decide) (by decide) (by decide) rfl

theorem getAttrDutyCycle : Statement .getAttrDutyCycle :=
  fun _ => hasHeaderLength_one 0x2 0x02 0 (by decide) (by decide) (by decide) rfl

theorem getAttrPeriod : Statement .getAttrPeriod :=
  fun _ => hasHeaderLength_one 0x2 0x03 0 (by decide) (by decide) (by decide) rfl

theorem getAttrPhase : Statement .getAttrPhase :=
  fun _ => hasHeaderLength_one 0x2 0x04 0 (by decide) (by decide) (by decide) rfl

theorem getAttrPhaseCount : Statement .getAttrPhaseCount :=
  fun _ => hasHeaderLength_one 0x2 0x05 0 (by decide) (by decide) (by decide) rfl

theorem getAttrVolume : Statement .getAttrVolume :=
  fun _ => hasHeaderLength_one 0x2 0x06 0 (by decide) (by decide) (by decide) rfl

theorem getAttrStatus : Statement .getAttrStatus :=
  fun _ => hasHeaderLength_one 0x2 0x07 0 (by decide) (by decide) (by decide) rfl

theorem getAttrNumChannels : Statement .getAttrNumChannels :=
  fun _ => hasHeaderLength_one 0x2 0x08 0 (by decide) (by decide) (by decide) rfl

theorem getAttrVolumeN (n : Nat) : Statement (.getAttrVolumeN n) := by
  intro h
  simp only [Instr.wellFormed, fitsChannel, decide_eq_true_eq] at h
  exact hasHeaderLength_one 0x2 (0x10 + n) 0 (by omega) (by omega) (by omega) rfl

theorem getAttrSampleOffset : Statement .getAttrSampleOffset :=
  fun _ => hasHeaderLength_one 0x2 0x20 0 (by decide) (by decide) (by decide) rfl

theorem getAttrSampleEnd : Statement .getAttrSampleEnd :=
  fun _ => hasHeaderLength_one 0x2 0x21 0 (by decide) (by decide) (by decide) rfl

theorem getAttrSamplePeriod : Statement .getAttrSamplePeriod :=
  fun _ => hasHeaderLength_one 0x2 0x22 0 (by decide) (by decide) (by decide) rfl

theorem getAttrSampleRepeat : Statement .getAttrSampleRepeat :=
  fun _ => hasHeaderLength_one 0x2 0x23 0 (by decide) (by decide) (by decide) rfl

theorem getAttrSampleCallback : Statement .getAttrSampleCallback :=
  fun _ => hasHeaderLength_one 0x2 0x24 0 (by decide) (by decide) (by decide) rfl

theorem getAttrSamplePosition : Statement .getAttrSamplePosition :=
  fun _ => hasHeaderLength_one 0x2 0x25 0 (by decide) (by decide) (by decide) rfl

theorem setPtrWaveform (h : Nat) : Statement (.setPtrWaveform h) :=
  fun _ => hasHeaderLength_two 0x3 0x01 _ (by decide) (by decide) rfl

theorem setPtrSample (h : Nat) : Statement (.setPtrSample h) :=
  fun _ => hasHeaderLength_two 0x3 0x02 _ (by decide) (by decide) rfl

theorem getPtrWaveform : Statement .getPtrWaveform :=
  fun _ => hasHeaderLength_one 0x4 0x01 0 (by decide) (by decide) (by decide) rfl

theorem getPtrSample : Statement .getPtrSample :=
  fun _ => hasHeaderLength_one 0x4 0x02 0 (by decide) (by decide) (by decide) rfl

theorem run (e : Nat) : Statement (.run e) :=
  fun _ => hasHeaderLength_three 0x5 e (by decide) rfl

theorem endChunk (t : Nat) : Statement (.endChunk t) :=
  fun _ => hasHeaderLength_three 0x6 t (by decide) rfl

theorem reset : Statement .reset :=
  fun _ => hasHeaderLength_one 0x7 0 0 (by decide) (by decide) (by decide) rfl

theorem attach (n : Int) : Statement (.attach n) :=
  fun _ => hasHeaderLength_two 0x8 0 _ (by decide) (by decide) rfl

theorem detach : Statement .detach :=
  fun _ => hasHeaderLength_one 0x9 0 0 (by decide) (by decide) (by decide) rfl

theorem dataNotifyReplaced (h : Nat) : Statement (.dataNotifyReplaced h) :=
  fun _ => hasHeaderLength_two 0xA 0x01 _ (by decide) (by decide) rfl

theorem dataNotifyDisposed (h : Nat) : Statement (.dataNotifyDisposed h) :=
  fun _ => hasHeaderLength_two 0xA 0x02 _ (by decide) (by decide) rfl

theorem boundaryReply (p : Int) : Statement (.boundaryReply p) :=
  fun _ => hasHeaderLength_two 0xB 0 _ (by decide) (by decide) rfl

theorem reservedOp0 (k : Nat) (r : Nat) : Statement (.reservedOp0 k r) := by
  intro h
  simp only [Instr.wellFormed, fitsKey, fitsRsv, Bool.and_eq_true, decide_eq_true_eq] at h
  exact hasHeaderLength_one 0x0 k r (by omega) (by omega) (by omega) rfl

theorem reservedOpcToOpf (op : Nat) (k : Nat) (r : Nat) : Statement (.reservedOpcToOpf op k r) := by
  intro h
  simp only [Instr.wellFormed, fitsHighReservedOp, fitsKey, fitsRsv, Bool.and_eq_true, decide_eq_true_eq] at h
  have hw : wordsOfOp op = 1 := by
    have h1 : op = 12 ∨ op = 13 ∨ op = 14 ∨ op = 15 := by omega
    rcases h1 with rfl | rfl | rfl | rfl <;> rfl
  exact hasHeaderLength_one op k r (by omega) (by omega) (by omega) hw

end Sys2Proof.Laws.EncodedLength
end

