-- ==== Sys2Proof/Laws/State.lean ====
section
/-! SUPPORT. What each named update of the state does to each field: one lemma per field, true by rfl, for simp. The
updates that branch are given as one record equation each (`restart_eq`, `clearTime_eq`, …). -/

namespace Sys2Proof.Machine

/-! ### `emit` -/

@[simp] theorem emit_attached (s : State) (es : List PortEvent) : (s.emit es).attached = s.attached := rfl
@[simp] theorem emit_nch (s : State) (es : List PortEvent) : (s.emit es).nch = s.nch := rfl
@[simp] theorem emit_waveform (s : State) (es : List PortEvent) : (s.emit es).waveform = s.waveform := rfl
@[simp] theorem emit_phase (s : State) (es : List PortEvent) : (s.emit es).phase = s.phase := rfl
@[simp] theorem emit_duty (s : State) (es : List PortEvent) : (s.emit es).duty = s.duty := rfl
@[simp] theorem emit_period (s : State) (es : List PortEvent) : (s.emit es).period = s.period := rfl
@[simp] theorem emit_volume (s : State) (es : List PortEvent) : (s.emit es).volume = s.volume := rfl
@[simp] theorem emit_time (s : State) (es : List PortEvent) : (s.emit es).time = s.time := rfl
@[simp] theorem emit_last (s : State) (es : List PortEvent) : (s.emit es).last = s.last := rfl
@[simp] theorem emit_lfsr (s : State) (es : List PortEvent) : (s.emit es).lfsr = s.lfsr := rfl
@[simp] theorem emit_wavePtr (s : State) (es : List PortEvent) : (s.emit es).wavePtr = s.wavePtr := rfl
@[simp] theorem emit_samplePtr (s : State) (es : List PortEvent) : (s.emit es).samplePtr = s.samplePtr := rfl
@[simp] theorem emit_sampleOffset (s : State) (es : List PortEvent) : (s.emit es).sampleOffset = s.sampleOffset := rfl
@[simp] theorem emit_sampleEnd (s : State) (es : List PortEvent) : (s.emit es).sampleEnd = s.sampleEnd := rfl
@[simp] theorem emit_samplePeriod (s : State) (es : List PortEvent) : (s.emit es).samplePeriod = s.samplePeriod := rfl
@[simp] theorem emit_sampleRepeat (s : State) (es : List PortEvent) : (s.emit es).sampleRepeat = s.sampleRepeat := rfl
@[simp] theorem emit_sampleCallback (s : State) (es : List PortEvent) : (s.emit es).sampleCallback = s.sampleCallback := rfl
@[simp] theorem emit_pos (s : State) (es : List PortEvent) : (s.emit es).pos = s.pos := rfl
@[simp] theorem emit_dir (s : State) (es : List PortEvent) : (s.emit es).dir = s.dir := rfl
@[simp] theorem emit_halted (s : State) (es : List PortEvent) : (s.emit es).halted = s.halted := rfl
@[simp] theorem emit_pending (s : State) (es : List PortEvent) : (s.emit es).pending = s.pending := rfl
@[simp] theorem emit_susp (s : State) (es : List PortEvent) : (s.emit es).susp = s.susp := rfl
@[simp] theorem emit_cfg (s : State) (es : List PortEvent) : (s.emit es).cfg = s.cfg := rfl
@[simp] theorem emit_waveShape (s : State) (es : List PortEvent) : (s.emit es).waveShape = s.waveShape := rfl
@[simp] theorem emit_sampleShape (s : State) (es : List PortEvent) : (s.emit es).sampleShape = s.sampleShape := rfl
@[simp] theorem emit_waveIdentity (s : State) (es : List PortEvent) : (s.emit es).waveIdentity = s.waveIdentity := rfl
@[simp] theorem emit_sampleIdentity (s : State) (es : List PortEvent) : (s.emit es).sampleIdentity = s.sampleIdentity := rfl
@[simp] theorem emit_data (s : State) (es : List PortEvent) : (s.emit es).data = s.data := rfl
@[simp] theorem emit_cmd (s : State) (es : List PortEvent) : (s.emit es).cmd = s.cmd := rfl
@[simp] theorem emit_out (s : State) (es : List PortEvent) : (s.emit es).out = s.out ++ es := rfl

/-! ### `respond` -/

@[simp] theorem respond_attached (s : State) (st : Status) : (s.respond st).attached = s.attached := rfl
@[simp] theorem respond_nch (s : State) (st : Status) : (s.respond st).nch = s.nch := rfl
@[simp] theorem respond_waveform (s : State) (st : Status) : (s.respond st).waveform = s.waveform := rfl
@[simp] theorem respond_phase (s : State) (st : Status) : (s.respond st).phase = s.phase := rfl
@[simp] theorem respond_duty (s : State) (st : Status) : (s.respond st).duty = s.duty := rfl
@[simp] theorem respond_period (s : State) (st : Status) : (s.respond st).period = s.period := rfl
@[simp] theorem respond_volume (s : State) (st : Status) : (s.respond st).volume = s.volume := rfl
@[simp] theorem respond_time (s : State) (st : Status) : (s.respond st).time = s.time := rfl
@[simp] theorem respond_last (s : State) (st : Status) : (s.respond st).last = s.last := rfl
@[simp] theorem respond_lfsr (s : State) (st : Status) : (s.respond st).lfsr = s.lfsr := rfl
@[simp] theorem respond_wavePtr (s : State) (st : Status) : (s.respond st).wavePtr = s.wavePtr := rfl
@[simp] theorem respond_samplePtr (s : State) (st : Status) : (s.respond st).samplePtr = s.samplePtr := rfl
@[simp] theorem respond_sampleOffset (s : State) (st : Status) : (s.respond st).sampleOffset = s.sampleOffset := rfl
@[simp] theorem respond_sampleEnd (s : State) (st : Status) : (s.respond st).sampleEnd = s.sampleEnd := rfl
@[simp] theorem respond_samplePeriod (s : State) (st : Status) : (s.respond st).samplePeriod = s.samplePeriod := rfl
@[simp] theorem respond_sampleRepeat (s : State) (st : Status) : (s.respond st).sampleRepeat = s.sampleRepeat := rfl
@[simp] theorem respond_sampleCallback (s : State) (st : Status) : (s.respond st).sampleCallback = s.sampleCallback := rfl
@[simp] theorem respond_pos (s : State) (st : Status) : (s.respond st).pos = s.pos := rfl
@[simp] theorem respond_dir (s : State) (st : Status) : (s.respond st).dir = s.dir := rfl
@[simp] theorem respond_halted (s : State) (st : Status) : (s.respond st).halted = s.halted := rfl
@[simp] theorem respond_pending (s : State) (st : Status) : (s.respond st).pending = s.pending := rfl
@[simp] theorem respond_susp (s : State) (st : Status) : (s.respond st).susp = s.susp := rfl
@[simp] theorem respond_cfg (s : State) (st : Status) : (s.respond st).cfg = s.cfg := rfl
@[simp] theorem respond_waveShape (s : State) (st : Status) : (s.respond st).waveShape = s.waveShape := rfl
@[simp] theorem respond_sampleShape (s : State) (st : Status) : (s.respond st).sampleShape = s.sampleShape := rfl
@[simp] theorem respond_waveIdentity (s : State) (st : Status) : (s.respond st).waveIdentity = s.waveIdentity := rfl
@[simp] theorem respond_sampleIdentity (s : State) (st : Status) : (s.respond st).sampleIdentity = s.sampleIdentity := rfl
@[simp] theorem respond_data (s : State) (st : Status) : (s.respond st).data = s.data := rfl
@[simp] theorem respond_cmd (s : State) (st : Status) : (s.respond st).cmd = s.cmd := rfl
@[simp] theorem respond_out (s : State) (st : Status) : (s.respond st).out = s.out ++ [.response st.word none] := rfl

/-! ### `respondValue` -/

@[simp] theorem respondValue_attached (s : State) (st : Status) (v : Word) : (s.respondValue st v).attached = s.attached := rfl
@[simp] theorem respondValue_nch (s : State) (st : Status) (v : Word) : (s.respondValue st v).nch = s.nch := rfl
@[simp] theorem respondValue_waveform (s : State) (st : Status) (v : Word) : (s.respondValue st v).waveform = s.waveform := rfl
@[simp] theorem respondValue_phase (s : State) (st : Status) (v : Word) : (s.respondValue st v).phase = s.phase := rfl
@[simp] theorem respondValue_duty (s : State) (st : Status) (v : Word) : (s.respondValue st v).duty = s.duty := rfl
@[simp] theorem respondValue_period (s : State) (st : Status) (v : Word) : (s.respondValue st v).period = s.period := rfl
@[simp] theorem respondValue_volume (s : State) (st : Status) (v : Word) : (s.respondValue st v).volume = s.volume := rfl
@[simp] theorem respondValue_time (s : State) (st : Status) (v : Word) : (s.respondValue st v).time = s.time := rfl
@[simp] theorem respondValue_last (s : State) (st : Status) (v : Word) : (s.respondValue st v).last = s.last := rfl
@[simp] theorem respondValue_lfsr (s : State) (st : Status) (v : Word) : (s.respondValue st v).lfsr = s.lfsr := rfl
@[simp] theorem respondValue_wavePtr (s : State) (st : Status) (v : Word) : (s.respondValue st v).wavePtr = s.wavePtr := rfl
@[simp] theorem respondValue_samplePtr (s : State) (st : Status) (v : Word) : (s.respondValue st v).samplePtr = s.samplePtr := rfl
@[simp] theorem respondValue_sampleOffset (s : State) (st : Status) (v : Word) : (s.respondValue st v).sampleOffset = s.sampleOffset := rfl
@[simp] theorem respondValue_sampleEnd (s : State) (st : Status) (v : Word) : (s.respondValue st v).sampleEnd = s.sampleEnd := rfl
@[simp] theorem respondValue_samplePeriod (s : State) (st : Status) (v : Word) : (s.respondValue st v).samplePeriod = s.samplePeriod := rfl
@[simp] theorem respondValue_sampleRepeat (s : State) (st : Status) (v : Word) : (s.respondValue st v).sampleRepeat = s.sampleRepeat := rfl
@[simp] theorem respondValue_sampleCallback (s : State) (st : Status) (v : Word) : (s.respondValue st v).sampleCallback = s.sampleCallback := rfl
@[simp] theorem respondValue_pos (s : State) (st : Status) (v : Word) : (s.respondValue st v).pos = s.pos := rfl
@[simp] theorem respondValue_dir (s : State) (st : Status) (v : Word) : (s.respondValue st v).dir = s.dir := rfl
@[simp] theorem respondValue_halted (s : State) (st : Status) (v : Word) : (s.respondValue st v).halted = s.halted := rfl
@[simp] theorem respondValue_pending (s : State) (st : Status) (v : Word) : (s.respondValue st v).pending = s.pending := rfl
@[simp] theorem respondValue_susp (s : State) (st : Status) (v : Word) : (s.respondValue st v).susp = s.susp := rfl
@[simp] theorem respondValue_cfg (s : State) (st : Status) (v : Word) : (s.respondValue st v).cfg = s.cfg := rfl
@[simp] theorem respondValue_waveShape (s : State) (st : Status) (v : Word) : (s.respondValue st v).waveShape = s.waveShape := rfl
@[simp] theorem respondValue_sampleShape (s : State) (st : Status) (v : Word) : (s.respondValue st v).sampleShape = s.sampleShape := rfl
@[simp] theorem respondValue_waveIdentity (s : State) (st : Status) (v : Word) : (s.respondValue st v).waveIdentity = s.waveIdentity := rfl
@[simp] theorem respondValue_sampleIdentity (s : State) (st : Status) (v : Word) : (s.respondValue st v).sampleIdentity = s.sampleIdentity := rfl
@[simp] theorem respondValue_data (s : State) (st : Status) (v : Word) : (s.respondValue st v).data = s.data := rfl
@[simp] theorem respondValue_cmd (s : State) (st : Status) (v : Word) : (s.respondValue st v).cmd = s.cmd := rfl
@[simp] theorem respondValue_out (s : State) (st : Status) (v : Word) : (s.respondValue st v).out = s.out ++ [.response st.word (some v)] := rfl

/-! ### `setVolume` -/

@[simp] theorem setVolume_attached (s : State) (c v : Nat) : (s.setVolume c v).attached = s.attached := rfl
@[simp] theorem setVolume_nch (s : State) (c v : Nat) : (s.setVolume c v).nch = s.nch := rfl
@[simp] theorem setVolume_waveform (s : State) (c v : Nat) : (s.setVolume c v).waveform = s.waveform := rfl
@[simp] theorem setVolume_phase (s : State) (c v : Nat) : (s.setVolume c v).phase = s.phase := rfl
@[simp] theorem setVolume_duty (s : State) (c v : Nat) : (s.setVolume c v).duty = s.duty := rfl
@[simp] theorem setVolume_period (s : State) (c v : Nat) : (s.setVolume c v).period = s.period := rfl
@[simp] theorem setVolume_volume (s : State) (c v : Nat) : (s.setVolume c v).volume = s.volume.set c v := rfl
@[simp] theorem setVolume_time (s : State) (c v : Nat) : (s.setVolume c v).time = s.time := rfl
@[simp] theorem setVolume_last (s : State) (c v : Nat) : (s.setVolume c v).last = s.last := rfl
@[simp] theorem setVolume_lfsr (s : State) (c v : Nat) : (s.setVolume c v).lfsr = s.lfsr := rfl
@[simp] theorem setVolume_wavePtr (s : State) (c v : Nat) : (s.setVolume c v).wavePtr = s.wavePtr := rfl
@[simp] theorem setVolume_samplePtr (s : State) (c v : Nat) : (s.setVolume c v).samplePtr = s.samplePtr := rfl
@[simp] theorem setVolume_sampleOffset (s : State) (c v : Nat) : (s.setVolume c v).sampleOffset = s.sampleOffset := rfl
@[simp] theorem setVolume_sampleEnd (s : State) (c v : Nat) : (s.setVolume c v).sampleEnd = s.sampleEnd := rfl
@[simp] theorem setVolume_samplePeriod (s : State) (c v : Nat) : (s.setVolume c v).samplePeriod = s.samplePeriod := rfl
@[simp] theorem setVolume_sampleRepeat (s : State) (c v : Nat) : (s.setVolume c v).sampleRepeat = s.sampleRepeat := rfl
@[simp] theorem setVolume_sampleCallback (s : State) (c v : Nat) : (s.setVolume c v).sampleCallback = s.sampleCallback := rfl
@[simp] theorem setVolume_pos (s : State) (c v : Nat) : (s.setVolume c v).pos = s.pos := rfl
@[simp] theorem setVolume_dir (s : State) (c v : Nat) : (s.setVolume c v).dir = s.dir := rfl
@[simp] theorem setVolume_halted (s : State) (c v : Nat) : (s.setVolume c v).halted = s.halted := rfl
@[simp] theorem setVolume_pending (s : State) (c v : Nat) : (s.setVolume c v).pending = s.pending := rfl
@[simp] theorem setVolume_susp (s : State) (c v : Nat) : (s.setVolume c v).susp = s.susp := rfl
@[simp] theorem setVolume_cfg (s : State) (c v : Nat) : (s.setVolume c v).cfg = s.cfg := rfl
@[simp] theorem setVolume_waveShape (s : State) (c v : Nat) : (s.setVolume c v).waveShape = s.waveShape := rfl
@[simp] theorem setVolume_sampleShape (s : State) (c v : Nat) : (s.setVolume c v).sampleShape = s.sampleShape := rfl
@[simp] theorem setVolume_waveIdentity (s : State) (c v : Nat) : (s.setVolume c v).waveIdentity = s.waveIdentity := rfl
@[simp] theorem setVolume_sampleIdentity (s : State) (c v : Nat) : (s.setVolume c v).sampleIdentity = s.sampleIdentity := rfl
@[simp] theorem setVolume_data (s : State) (c v : Nat) : (s.setVolume c v).data = s.data := rfl
@[simp] theorem setVolume_cmd (s : State) (c v : Nat) : (s.setVolume c v).cmd = s.cmd := rfl
@[simp] theorem setVolume_out (s : State) (c v : Nat) : (s.setVolume c v).out = s.out := rfl

/-! ### `setAllVolumes` -/

@[simp] theorem setAllVolumes_attached (s : State) (v : Nat) : (s.setAllVolumes v).attached = s.attached := rfl
@[simp] theorem setAllVolumes_nch (s : State) (v : Nat) : (s.setAllVolumes v).nch = s.nch := rfl
@[simp] theorem setAllVolumes_waveform (s : State) (v : Nat) : (s.setAllVolumes v).waveform = s.waveform := rfl
@[simp] theorem setAllVolumes_phase (s : State) (v : Nat) : (s.setAllVolumes v).phase = s.phase := rfl
@[simp] theorem setAllVolumes_duty (s : State) (v : Nat) : (s.setAllVolumes v).duty = s.duty := rfl
@[simp] theorem setAllVolumes_period (s : State) (v : Nat) : (s.setAllVolumes v).period = s.period := rfl
@[simp] theorem setAllVolumes_volume (s : State) (v : Nat) : (s.setAllVolumes v).volume = List.replicate s.cfg.maxChannels v := rfl
@[simp] theorem setAllVolumes_time (s : State) (v : Nat) : (s.setAllVolumes v).time = s.time := rfl
@[simp] theorem setAllVolumes_last (s : State) (v : Nat) : (s.setAllVolumes v).last = s.last := rfl
@[simp] theorem setAllVolumes_lfsr (s : State) (v : Nat) : (s.setAllVolumes v).lfsr = s.lfsr := rfl
@[simp] theorem setAllVolumes_wavePtr (s : State) (v : Nat) : (s.setAllVolumes v).wavePtr = s.wavePtr := rfl
@[simp] theorem setAllVolumes_samplePtr (s : State) (v : Nat) : (s.setAllVolumes v).samplePtr = s.samplePtr := rfl
@[simp] theorem setAllVolumes_sampleOffset (s : State) (v : Nat) : (s.setAllVolumes v).sampleOffset = s.sampleOffset := rfl
@[simp] theorem setAllVolumes_sampleEnd (s : State) (v : Nat) : (s.setAllVolumes v).sampleEnd = s.sampleEnd := rfl
@[simp] theorem setAllVolumes_samplePeriod (s : State) (v : Nat) : (s.setAllVolumes v).samplePeriod = s.samplePeriod := rfl
@[simp] theorem setAllVolumes_sampleRepeat (s : State) (v : Nat) : (s.setAllVolumes v).sampleRepeat = s.sampleRepeat := rfl
@[simp] theorem setAllVolumes_sampleCallback (s : State) (v : Nat) : (s.setAllVolumes v).sampleCallback = s.sampleCallback := rfl
@[simp] theorem setAllVolumes_pos (s : State) (v : Nat) : (s.setAllVolumes v).pos = s.pos := rfl
@[simp] theorem setAllVolumes_dir (s : State) (v : Nat) : (s.setAllVolumes v).dir = s.dir := rfl
@[simp] theorem setAllVolumes_halted (s : State) (v : Nat) : (s.setAllVolumes v).halted = s.halted := rfl
@[simp] theorem setAllVolumes_pending (s : State) (v : Nat) : (s.setAllVolumes v).pending = s.pending := rfl
@[simp] theorem setAllVolumes_susp (s : State) (v : Nat) : (s.setAllVolumes v).susp = s.susp := rfl
@[simp] theorem setAllVolumes_cfg (s : State) (v : Nat) : (s.setAllVolumes v).cfg = s.cfg := rfl
@[simp] theorem setAllVolumes_waveShape (s : State) (v : Nat) : (s.setAllVolumes v).waveShape = s.waveShape := rfl
@[simp] theorem setAllVolumes_sampleShape (s : State) (v : Nat) : (s.setAllVolumes v).sampleShape = s.sampleShape := rfl
@[simp] theorem setAllVolumes_waveIdentity (s : State) (v : Nat) : (s.setAllVolumes v).waveIdentity = s.waveIdentity := rfl
@[simp] theorem setAllVolumes_sampleIdentity (s : State) (v : Nat) : (s.setAllVolumes v).sampleIdentity = s.sampleIdentity := rfl
@[simp] theorem setAllVolumes_data (s : State) (v : Nat) : (s.setAllVolumes v).data = s.data := rfl
@[simp] theorem setAllVolumes_cmd (s : State) (v : Nat) : (s.setAllVolumes v).cmd = s.cmd := rfl
@[simp] theorem setAllVolumes_out (s : State) (v : Nat) : (s.setAllVolumes v).out = s.out := rfl

/-! ### `setLast` -/

@[simp] theorem setLast_attached (s : State) (c : Nat) (l : Int) : (s.setLast c l).attached = s.attached := rfl
@[simp] theorem setLast_nch (s : State) (c : Nat) (l : Int) : (s.setLast c l).nch = s.nch := rfl
@[simp] theorem setLast_waveform (s : State) (c : Nat) (l : Int) : (s.setLast c l).waveform = s.waveform := rfl
@[simp] theorem setLast_phase (s : State) (c : Nat) (l : Int) : (s.setLast c l).phase = s.phase := rfl
@[simp] theorem setLast_duty (s : State) (c : Nat) (l : Int) : (s.setLast c l).duty = s.duty := rfl
@[simp] theorem setLast_period (s : State) (c : Nat) (l : Int) : (s.setLast c l).period = s.period := rfl
@[simp] theorem setLast_volume (s : State) (c : Nat) (l : Int) : (s.setLast c l).volume = s.volume := rfl
@[simp] theorem setLast_time (s : State) (c : Nat) (l : Int) : (s.setLast c l).time = s.time := rfl
@[simp] theorem setLast_last (s : State) (c : Nat) (l : Int) : (s.setLast c l).last = s.last.set c l := rfl
@[simp] theorem setLast_lfsr (s : State) (c : Nat) (l : Int) : (s.setLast c l).lfsr = s.lfsr := rfl
@[simp] theorem setLast_wavePtr (s : State) (c : Nat) (l : Int) : (s.setLast c l).wavePtr = s.wavePtr := rfl
@[simp] theorem setLast_samplePtr (s : State) (c : Nat) (l : Int) : (s.setLast c l).samplePtr = s.samplePtr := rfl
@[simp] theorem setLast_sampleOffset (s : State) (c : Nat) (l : Int) : (s.setLast c l).sampleOffset = s.sampleOffset := rfl
@[simp] theorem setLast_sampleEnd (s : State) (c : Nat) (l : Int) : (s.setLast c l).sampleEnd = s.sampleEnd := rfl
@[simp] theorem setLast_samplePeriod (s : State) (c : Nat) (l : Int) : (s.setLast c l).samplePeriod = s.samplePeriod := rfl
@[simp] theorem setLast_sampleRepeat (s : State) (c : Nat) (l : Int) : (s.setLast c l).sampleRepeat = s.sampleRepeat := rfl
@[simp] theorem setLast_sampleCallback (s : State) (c : Nat) (l : Int) : (s.setLast c l).sampleCallback = s.sampleCallback := rfl
@[simp] theorem setLast_pos (s : State) (c : Nat) (l : Int) : (s.setLast c l).pos = s.pos := rfl
@[simp] theorem setLast_dir (s : State) (c : Nat) (l : Int) : (s.setLast c l).dir = s.dir := rfl
@[simp] theorem setLast_halted (s : State) (c : Nat) (l : Int) : (s.setLast c l).halted = s.halted := rfl
@[simp] theorem setLast_pending (s : State) (c : Nat) (l : Int) : (s.setLast c l).pending = s.pending := rfl
@[simp] theorem setLast_susp (s : State) (c : Nat) (l : Int) : (s.setLast c l).susp = s.susp := rfl
@[simp] theorem setLast_cfg (s : State) (c : Nat) (l : Int) : (s.setLast c l).cfg = s.cfg := rfl
@[simp] theorem setLast_waveShape (s : State) (c : Nat) (l : Int) : (s.setLast c l).waveShape = s.waveShape := rfl
@[simp] theorem setLast_sampleShape (s : State) (c : Nat) (l : Int) : (s.setLast c l).sampleShape = s.sampleShape := rfl
@[simp] theorem setLast_waveIdentity (s : State) (c : Nat) (l : Int) : (s.setLast c l).waveIdentity = s.waveIdentity := rfl
@[simp] theorem setLast_sampleIdentity (s : State) (c : Nat) (l : Int) : (s.setLast c l).sampleIdentity = s.sampleIdentity := rfl
@[simp] theorem setLast_data (s : State) (c : Nat) (l : Int) : (s.setLast c l).data = s.data := rfl
@[simp] theorem setLast_cmd (s : State) (c : Nat) (l : Int) : (s.setLast c l).cmd = s.cmd := rfl
@[simp] theorem setLast_out (s : State) (c : Nat) (l : Int) : (s.setLast c l).out = s.out := rfl

/-! ### `addPeriod` -/

@[simp] theorem addPeriod_attached (s : State) : (addPeriod s).attached = s.attached := rfl
@[simp] theorem addPeriod_nch (s : State) : (addPeriod s).nch = s.nch := rfl
@[simp] theorem addPeriod_waveform (s : State) : (addPeriod s).waveform = s.waveform := rfl
@[simp] theorem addPeriod_phase (s : State) : (addPeriod s).phase = s.phase := rfl
@[simp] theorem addPeriod_duty (s : State) : (addPeriod s).duty = s.duty := rfl
@[simp] theorem addPeriod_period (s : State) : (addPeriod s).period = s.period := rfl
@[simp] theorem addPeriod_volume (s : State) : (addPeriod s).volume = s.volume := rfl
@[simp] theorem addPeriod_time (s : State) : (addPeriod s).time = s.time + s.period := rfl
@[simp] theorem addPeriod_last (s : State) : (addPeriod s).last = s.last := rfl
@[simp] theorem addPeriod_lfsr (s : State) : (addPeriod s).lfsr = s.lfsr := rfl
@[simp] theorem addPeriod_wavePtr (s : State) : (addPeriod s).wavePtr = s.wavePtr := rfl
@[simp] theorem addPeriod_samplePtr (s : State) : (addPeriod s).samplePtr = s.samplePtr := rfl
@[simp] theorem addPeriod_sampleOffset (s : State) : (addPeriod s).sampleOffset = s.sampleOffset := rfl
@[simp] theorem addPeriod_sampleEnd (s : State) : (addPeriod s).sampleEnd = s.sampleEnd := rfl
@[simp] theorem addPeriod_samplePeriod (s : State) : (addPeriod s).samplePeriod = s.samplePeriod := rfl
@[simp] theorem addPeriod_sampleRepeat (s : State) : (addPeriod s).sampleRepeat = s.sampleRepeat := rfl
@[simp] theorem addPeriod_sampleCallback (s : State) : (addPeriod s).sampleCallback = s.sampleCallback := rfl
@[simp] theorem addPeriod_pos (s : State) : (addPeriod s).pos = s.pos := rfl
@[simp] theorem addPeriod_dir (s : State) : (addPeriod s).dir = s.dir := rfl
@[simp] theorem addPeriod_halted (s : State) : (addPeriod s).halted = s.halted := rfl
@[simp] theorem addPeriod_pending (s : State) : (addPeriod s).pending = s.pending := rfl
@[simp] theorem addPeriod_susp (s : State) : (addPeriod s).susp = s.susp := rfl
@[simp] theorem addPeriod_cfg (s : State) : (addPeriod s).cfg = s.cfg := rfl
@[simp] theorem addPeriod_waveShape (s : State) : (addPeriod s).waveShape = s.waveShape := rfl
@[simp] theorem addPeriod_sampleShape (s : State) : (addPeriod s).sampleShape = s.sampleShape := rfl
@[simp] theorem addPeriod_waveIdentity (s : State) : (addPeriod s).waveIdentity = s.waveIdentity := rfl
@[simp] theorem addPeriod_sampleIdentity (s : State) : (addPeriod s).sampleIdentity = s.sampleIdentity := rfl
@[simp] theorem addPeriod_data (s : State) : (addPeriod s).data = s.data := rfl
@[simp] theorem addPeriod_cmd (s : State) : (addPeriod s).cmd = s.cmd := rfl
@[simp] theorem addPeriod_out (s : State) : (addPeriod s).out = s.out := rfl

/-! ### `movePos` -/

@[simp] theorem movePos_attached (s : State) : (movePos s).attached = s.attached := rfl
@[simp] theorem movePos_nch (s : State) : (movePos s).nch = s.nch := rfl
@[simp] theorem movePos_waveform (s : State) : (movePos s).waveform = s.waveform := rfl
@[simp] theorem movePos_phase (s : State) : (movePos s).phase = s.phase := rfl
@[simp] theorem movePos_duty (s : State) : (movePos s).duty = s.duty := rfl
@[simp] theorem movePos_period (s : State) : (movePos s).period = s.period := rfl
@[simp] theorem movePos_volume (s : State) : (movePos s).volume = s.volume := rfl
@[simp] theorem movePos_time (s : State) : (movePos s).time = s.time := rfl
@[simp] theorem movePos_last (s : State) : (movePos s).last = s.last := rfl
@[simp] theorem movePos_lfsr (s : State) : (movePos s).lfsr = s.lfsr := rfl
@[simp] theorem movePos_wavePtr (s : State) : (movePos s).wavePtr = s.wavePtr := rfl
@[simp] theorem movePos_samplePtr (s : State) : (movePos s).samplePtr = s.samplePtr := rfl
@[simp] theorem movePos_sampleOffset (s : State) : (movePos s).sampleOffset = s.sampleOffset := rfl
@[simp] theorem movePos_sampleEnd (s : State) : (movePos s).sampleEnd = s.sampleEnd := rfl
@[simp] theorem movePos_samplePeriod (s : State) : (movePos s).samplePeriod = s.samplePeriod := rfl
@[simp] theorem movePos_sampleRepeat (s : State) : (movePos s).sampleRepeat = s.sampleRepeat := rfl
@[simp] theorem movePos_sampleCallback (s : State) : (movePos s).sampleCallback = s.sampleCallback := rfl
@[simp] theorem movePos_pos (s : State) : (movePos s).pos = s.pos + s.dir.sign * s.samplePeriod := rfl
@[simp] theorem movePos_dir (s : State) : (movePos s).dir = s.dir := rfl
@[simp] theorem movePos_halted (s : State) : (movePos s).halted = s.halted := rfl
@[simp] theorem movePos_pending (s : State) : (movePos s).pending = s.pending := rfl
@[simp] theorem movePos_susp (s : State) : (movePos s).susp = s.susp := rfl
@[simp] theorem movePos_cfg (s : State) : (movePos s).cfg = s.cfg := rfl
@[simp] theorem movePos_waveShape (s : State) : (movePos s).waveShape = s.waveShape := rfl
@[simp] theorem movePos_sampleShape (s : State) : (movePos s).sampleShape = s.sampleShape := rfl
@[simp] theorem movePos_waveIdentity (s : State) : (movePos s).waveIdentity = s.waveIdentity := rfl
@[simp] theorem movePos_sampleIdentity (s : State) : (movePos s).sampleIdentity = s.sampleIdentity := rfl
@[simp] theorem movePos_data (s : State) : (movePos s).data = s.data := rfl
@[simp] theorem movePos_cmd (s : State) : (movePos s).cmd = s.cmd := rfl
@[simp] theorem movePos_out (s : State) : (movePos s).out = s.out := rfl

/-! ### Updates that branch, as record equations -/

/-- `Restart(u)` writes `dir`, `halted` and `pos` and nothing else (R302). -/
theorem restart_eq (s : State) :
    restart s =
      { s with
        dir := .forward
        halted := decide (s.samplePtr ≠ 0 ∧ s.sampleEnd ≤ s.sampleOffset)
        pos :=
          if s.samplePtr = 0 ∨ s.sampleEnd ≤ s.sampleOffset ∨ 0 ≤ s.samplePeriod then rangeLo s
          else rangeHi s - s.cfg.one } := by
  unfold restart
  by_cases h1 : s.samplePtr = 0 <;> by_cases h2 : s.sampleEnd ≤ s.sampleOffset <;> simp [h1, h2]

/-- `ClearTime(u)` writes the counters and restarts playback (R357). -/
theorem clearTime_eq (s : State) :
    clearTime s =
      { s with
        time := 0
        phase := 0
        last := List.replicate s.cfg.maxChannels 0
        lfsr := s.cfg.lfsrSeed
        dir := .forward
        halted := decide (s.samplePtr ≠ 0 ∧ s.sampleEnd ≤ s.sampleOffset)
        pos :=
          if s.samplePtr = 0 ∨ s.sampleEnd ≤ s.sampleOffset ∨ 0 ≤ s.samplePeriod then rangeLo s
          else rangeHi s - s.cfg.one } := by
  unfold clearTime
  rw [restart_eq]
  rfl

/-- `DropWave(u)` (R507). -/
theorem dropWave_eq (s : State) :
    dropWave s =
      { s with
        wavePtr := 0
        waveShape := ⟨0, 0⟩
        waveIdentity := .same
        waveform := if s.waveform = .custom then .square else s.waveform
        phase := if s.waveform = .custom then 0 else s.phase } := by
  unfold dropWave
  by_cases h : s.waveform = .custom <;> simp [h]

/-- `DropSample(u)` (R508). -/
theorem dropSample_eq (s : State) :
    dropSample s =
      { s with
        samplePtr := 0
        sampleShape := ⟨0, 0⟩
        sampleIdentity := .same
        sampleOffset := 0
        sampleEnd := 0
        waveform := if s.waveform = .sample then .square else s.waveform
        phase := if s.waveform = .sample then 0 else s.phase
        dir := .forward
        halted := false
        pos := 0 } := by
  unfold dropSample
  by_cases h : s.waveform = .sample <;> simp [h, restart, rangeLo, fixedOf]

/-- END's shift writes `time` alone (R270). -/
theorem applyShift_eq (k : SuspKind) (s : State) :
    applyShift k s = { s with time := s.time - (match k with | .run => 0 | .endChunk shift => shift) } := by
  cases k <;> rfl

/-! ### Per-channel registers -/

/-- A register written reads as written, in range. -/
@[simp] theorem setLast_lastAt_same (s : State) (c : Nat) (l : Int) (h : c < s.last.length) : (s.setLast c l).lastAt c = l := by
  simp [State.lastAt, State.setLast, h]

/-- A register written leaves the others alone. -/
theorem setLast_lastAt_other (s : State) (c d : Nat) (l : Int) (h : c ≠ d) : (s.setLast c l).lastAt d = s.lastAt d := by
  simp [State.lastAt, State.setLast, h]

/-- There is no register beyond MAX_CHANNELS to write. -/
theorem setLast_beyond (s : State) (c : Nat) (l : Int) (h : s.last.length ≤ c) : s.setLast c l = s := by
  simp [State.setLast, List.set_eq_of_length_le h]

/-- A gain written reads as written, in range. -/
@[simp] theorem setVolume_volumeAt_same (s : State) (c v : Nat) (h : c < s.volume.length) : (s.setVolume c v).volumeAt c = v := by
  simp [State.volumeAt, State.setVolume, h]

/-- A gain written leaves the others alone. -/
theorem setVolume_volumeAt_other (s : State) (c d v : Nat) (h : c ≠ d) :
    (s.setVolume c v).volumeAt d = s.volumeAt d := by
  simp [State.volumeAt, State.setVolume, h]

/-- Every gain written reads as written, in range. -/
@[simp] theorem setAllVolumes_volumeAt (s : State) (v c : Nat) (h : c < s.cfg.maxChannels) : (s.setAllVolumes v).volumeAt c = v := by
  simp [State.volumeAt, State.setAllVolumes, h]

end Sys2Proof.Machine
end

