-- ==== Sys2Proof/Laws/Playback.lean ====
section
/-! SUPPORT. What sample playback can do: the reflection loop ends in the range (R311), a policy's effect (R308 to R310),
and the cases of an advance (R306, R307). -/

namespace Sys2Proof.Machine

/-! ### The range -/

/-- One sample is at least one time unit. -/
theorem one_pos (p : Config.Params) : (0 : Int) < 2 ^ p.frac := by positivity

/-- A position of more whole samples is at least a sample further on. -/
theorem fixedOf_succ_le (p : Config.Params) {a b : Nat} (h : a < b) : fixedOf p a + 2 ^ p.frac ≤ fixedOf p b := by
  have h1 := one_pos p
  have h2 : (a : Int) + 1 ≤ b := by exact_mod_cast h
  unfold fixedOf
  nlinarith

/-- Positions of whole samples are ordered as their counts. -/
theorem fixedOf_le (p : Config.Params) {a b : Nat} (h : a ≤ b) : fixedOf p a ≤ fixedOf p b := by
  have h2 : (a : Int) ≤ b := by exact_mod_cast h
  exact mul_le_mul_of_nonneg_right h2 (one_pos p).le

/-- A position of whole samples is not negative. -/
theorem fixedOf_nonneg (p : Config.Params) (a : Nat) : 0 ≤ fixedOf p a :=
  mul_nonneg (by omega) (one_pos p).le

/-- The range bounds as fixed-point positions (R300). -/
theorem rangeLo_eq (s : State) : rangeLo s = (s.sampleOffset : Int) * 2 ^ s.cfg.frac := rfl

/-- The range bounds as fixed-point positions (R300). -/
theorem rangeHi_eq (s : State) : rangeHi s = (s.sampleEnd : Int) * 2 ^ s.cfg.frac := rfl

/-- A range is not empty exactly when its bounds are in order. -/
theorem rangeLo_lt_rangeHi (s : State) : rangeLo s < rangeHi s ↔ s.sampleOffset < s.sampleEnd := by
  refine ⟨fun h => ?_, fun h => ?_⟩
  · by_contra hc
    have := fixedOf_le s.cfg (Nat.le_of_not_lt hc)
    unfold rangeLo rangeHi at h
    omega
  · have := fixedOf_succ_le s.cfg h
    have := one_pos s.cfg
    unfold rangeLo rangeHi
    omega

/-- R306's test, as an inequality. -/
theorem outOfRange_iff (s : State) : outOfRange s = true ↔ rangeHi s ≤ s.pos ∨ s.pos < rangeLo s := by
  simp [outOfRange]

/-- The bounds depend on `FRAC`, `sampleOffset` and `sampleEnd` alone. -/
theorem range_congr {s t : State} (h0 : t.cfg = s.cfg) (h1 : t.sampleOffset = s.sampleOffset) (h2 : t.sampleEnd = s.sampleEnd) :
    rangeLo t = rangeLo s ∧ rangeHi t = rangeHi s := by
  simp [rangeLo, rangeHi, h0, h1, h2]

/-! ### Reflection (R310, R311) -/

/-- A position in the range is left alone. -/
theorem reflect_inside (O E : Int) (k : Nat) (p : Int) (d : Dir) (h : O ≤ p ∧ p < E) : reflect O E k p d = (p, d) := by
  cases k with
  | zero => rfl
  | succ k => rw [reflect, if_neg (by omega), if_neg (by omega)]

/-- With `k` iterations the loop brings back every position less than `k` range lengths outside. -/
theorem reflect_range_of_near (O E : Int) (hL : O < E) (k : Nat) (p : Int) (d : Dir)
    (hlo : O - k * (E - O) ≤ p) (hhi : p < E + k * (E - O)) :
    O ≤ (reflect O E k p d).1 ∧ (reflect O E k p d).1 < E := by
  induction k generalizing p d with
  | zero => simp only [reflect]; push_cast at hlo hhi; omega
  | succ k ih =>
    have e : ((k + 1 : Nat) : Int) * (E - O) = k * (E - O) + (E - O) := by push_cast; ring
    rw [e] at hlo hhi
    have hk : 0 ≤ (k : Int) * (E - O) := mul_nonneg (by omega) (by omega)
    unfold reflect
    split
    · by_cases hin : O ≤ 2 * E - 1 - p
      · rw [reflect_inside O E k _ _ ⟨hin, by omega⟩]; exact ⟨hin, by simp only; omega⟩
      · exact ih _ _ (by omega) (by omega)
    · split
      · by_cases hin : 2 * O - 1 - p < E
        · rw [reflect_inside O E k _ _ ⟨by omega, hin⟩]; exact ⟨by simp only; omega, hin⟩
        · exact ih _ _ (by omega) (by omega)
      · simp only; omega

/-- R311: with the bound of `reflectBound` the loop ends in the range. -/
theorem reflect_range (O E : Int) (hL : O < E) (p : Int) (d : Dir) :
    O ≤ (reflect O E (reflectBound O E p) p d).1 ∧ (reflect O E (reflectBound O E p) p d).1 < E := by
  have hpos : 0 < 2 * (E - O) := by omega
  have key : ∀ x : Int, 0 ≤ x → x ≤ (2 * ((x + (2 * (E - O) - 1)) / (2 * (E - O))) + 1).toNat * (E - O) := by
    intro x hx
    have h1 := Int.mul_ediv_add_emod (x + (2 * (E - O) - 1)) (2 * (E - O))
    have h2 := Int.emod_lt_of_pos (x + (2 * (E - O) - 1)) hpos
    have h3 : 0 ≤ (x + (2 * (E - O) - 1)) / (2 * (E - O)) := Int.ediv_nonneg (by omega) (by omega)
    rw [Int.toNat_of_nonneg (by omega)]
    nlinarith
  by_cases hin : O ≤ p ∧ p < E
  · rw [reflect_inside O E _ p d hin]; exact hin
  · apply reflect_range_of_near O E hL
    · unfold reflectBound
      by_cases h : E ≤ p
      · have := key (p - E) (by omega); simp only [if_pos h]; omega
      · have := key (O - p) (by omega); simp only [if_neg h]; omega
    · unfold reflectBound
      by_cases h : E ≤ p
      · simp only [if_pos h]
        have h1 := Int.mul_ediv_add_emod (p - E + (2 * (E - O) - 1)) (2 * (E - O))
        have h2 := Int.emod_lt_of_pos (p - E + (2 * (E - O) - 1)) hpos
        have h3 : 0 ≤ (p - E + (2 * (E - O) - 1)) / (2 * (E - O)) := Int.ediv_nonneg (by omega) (by omega)
        rw [Int.toNat_of_nonneg (by omega)]
        nlinarith
      · have := key (O - p) (by omega); simp only [if_neg h]; omega

/-! ### Policies -/

/-- A policy writes `pos`, `dir` and `halted` and nothing else. -/
theorem applyPolicy_frame (p : Policy) (s : State) :
    applyPolicy p s =
      { s with
        pos := (applyPolicy p s).pos
        dir := (applyPolicy p s).dir
        halted := (applyPolicy p s).halted } := by
  cases p <;> rfl

/-- R308 to R310: NONE halts and leaves the position; the other two do not halt and bring it into a range that is not
empty. -/
theorem applyPolicy_spec (p : Policy) (s : State) (h : s.sampleOffset < s.sampleEnd) :
    (p = .none ∧ (applyPolicy p s).halted = true ∧ (applyPolicy p s).pos = s.pos) ∨
    (p ≠ .none ∧ (applyPolicy p s).halted = s.halted ∧
      rangeLo s ≤ (applyPolicy p s).pos ∧ (applyPolicy p s).pos < rangeHi s) := by
  have hL := (rangeLo_lt_rangeHi s).2 h
  cases p with
  | none => exact .inl ⟨rfl, rfl, rfl⟩
  | repeats =>
    have h1 := Int.emod_nonneg (s.pos - rangeLo s) (b := rangeHi s - rangeLo s) (by omega)
    have h2 := Int.emod_lt_of_pos (s.pos - rangeLo s) (b := rangeHi s - rangeLo s) (by omega)
    refine .inr ⟨by simp, rfl, ?_, ?_⟩ <;> simp only [applyPolicy] <;> omega
  | palindrome => exact .inr ⟨by simp, rfl, reflect_range _ _ hL _ _⟩

/-! ### The advance -/

/-- What an advance of sample playback can do (R306, R307). -/
theorem sampleAdvance_cases (s : State) :
    (s.halted = true ∧ sampleAdvance s = .done s) ∨
    (s.halted = false ∧ outOfRange (movePos s) = false ∧ sampleAdvance s = .done (movePos s)) ∨
    (s.halted = false ∧ outOfRange (movePos s) = true ∧ s.sampleCallback = false ∧
      sampleAdvance s = .done (applyPolicy s.sampleRepeat (movePos s))) ∨
    (s.halted = false ∧ outOfRange (movePos s) = true ∧ s.sampleCallback = true ∧
      sampleAdvance s = .request (movePos s) (crossedEdge (movePos s))) := by
  unfold sampleAdvance boundary
  cases h1 : s.halted
  · cases h2 : outOfRange (movePos s)
    · simp
    · cases h3 : s.sampleCallback <;> simp [h3]
  · simp

end Sys2Proof.Machine
end

