-- ==== Sys2Proof/Laws/Steps.lean ====
section
/-! SUPPORT. What one oscillator step can do, and what the step loop can do (40_phase_advance.md R212, R213,
41_pulse_generation.md R251). -/

namespace Sys2Proof.Machine

/-! ### What stays -/

/-- Nothing changed. -/
theorem SameAttributes.rfl' (s : State) : SameAttributes s s := by constructor <;> rfl

/-- Nothing changed. -/
theorem SamePorts.rfl' (s : State) : SamePorts s s := by constructor <;> rfl

/-- Two stretches that keep the attributes. -/
theorem SameAttributes.trans' {s t u : State} (h : SameAttributes s t) (g : SameAttributes t u) : SameAttributes s u :=
  ⟨g.cfg.trans h.cfg, g.attached.trans h.attached, g.nch.trans h.nch, g.waveform.trans h.waveform, g.duty.trans h.duty,
    g.period.trans h.period, g.volume.trans h.volume, g.wavePtr.trans h.wavePtr, g.samplePtr.trans h.samplePtr,
    g.sampleOffset.trans h.sampleOffset, g.sampleEnd.trans h.sampleEnd, g.samplePeriod.trans h.samplePeriod,
    g.sampleRepeat.trans h.sampleRepeat, g.sampleCallback.trans h.sampleCallback, g.waveShape.trans h.waveShape,
    g.sampleShape.trans h.sampleShape, g.waveIdentity.trans h.waveIdentity,
    g.sampleIdentity.trans h.sampleIdentity, g.data.trans h.data, g.cmd.trans h.cmd⟩

/-- Two stretches that keep the ports. -/
theorem SamePorts.trans' {s t u : State} (h : SamePorts s t) (g : SamePorts t u) : SamePorts s u :=
  ⟨g.last.trans h.last, g.pending.trans h.pending, g.susp.trans h.susp, g.out.trans h.out⟩

/-- What changes between two such states (R212): the phase, the noise register and the playback position. -/
theorem SameAttributes.eq {s t : State} (h : SameAttributes s t) (g : SamePorts s t) (ht : t.time = s.time) :
    t = { s with phase := t.phase, lfsr := t.lfsr, pos := t.pos, dir := t.dir, halted := t.halted } := by
  cases s
  cases t
  obtain ⟨h1, h2, h3, h4, h5, h6, h7, h8, h9, h10, h11, h12, h13, h14, h15, h16, h17, h18, h19, h20⟩ := h
  obtain ⟨g1, g2, g3, g4⟩ := g
  simp only at *
  subst_vars
  rfl

/-! ### Amplitudes -/

/-- With the default frame range every data memory that keeps the port's contract holds frame values (R102). -/
theorem dataInv_of_int16 (s : State) (hc : s.cfg.frameMin = -2 ^ 15 ∧ s.cfg.frameMax = 2 ^ 15 - 1) (h : dataWf s.data)
    (hw : ∀ o ∈ s.waveIdentity.former, o.shape = s.waveShape) (hs : ∀ o ∈ s.sampleIdentity.former, o.shape = s.sampleShape) :
    s.DataInv := by
  have key : ∀ v : Int, -2 ^ 15 ≤ v ∧ v < 2 ^ 15 → FrameValue s.cfg v := fun v hv =>
    ⟨by rw [hc.1]; exact hv.1, by rw [hc.2]; omega⟩
  exact ⟨h, fun h i k v hv => key v (dataFrame_range s h i k v hv),
    fun o ho => ⟨hw o ho, fun i _ k _ => key _ (objectFrame_range o i k)⟩,
    fun o ho => ⟨hs o ho, fun i _ k _ => key _ (objectFrame_range o i k)⟩⟩

/-- A value up to AMP_MAX in magnitude is a frame value. -/
theorem frameValue_of_amp {p : Config.Params} (h : p.WellFormed) {a : Int} (ha : -p.ampMax ≤ a ∧ a ≤ p.ampMax) :
    FrameValue p a := by
  obtain ⟨-, ⟨-, -, hA, -⟩, -⟩ := h
  exact ⟨by omega, by omega⟩

/-- Silence and the two levels of SQUARE and NOISE are frame values (R201, R207, 42_sample_playback.md R304). -/
theorem frameValue_amps {p : Config.Params} (h : p.WellFormed) :
    FrameValue p 0 ∧ FrameValue p p.ampMax ∧ FrameValue p (-p.ampMax) := by
  have hA : 0 ≤ p.ampMax := h.2.1.2.2.1.1
  exact ⟨frameValue_of_amp h (by omega), frameValue_of_amp h (by omega), frameValue_of_amp h (by omega)⟩

/-- A fraction of AMP_MAX, truncated, stays within AMP_MAX. -/
theorem truncDiv_amp (x m A : Int) (hm : 0 < m) (hA : 0 ≤ A) (hx : -m ≤ x ∧ x ≤ m) :
    -A ≤ truncDiv (x * A) m ∧ truncDiv (x * A) m ≤ A := by
  unfold truncDiv
  have key : ∀ y : Int, 0 ≤ y → y ≤ m → 0 ≤ (y * A).tdiv m ∧ (y * A).tdiv m ≤ A := by
    intro y h0 h1
    rw [Int.tdiv_eq_ediv_of_nonneg (mul_nonneg h0 hA)]
    refine ⟨Int.ediv_nonneg (mul_nonneg h0 hA) hm.le, ?_⟩
    exact Int.ediv_le_of_le_mul hm (by nlinarith)
  by_cases h : 0 ≤ x
  · have := key x h hx.2; omega
  · have := key (-x) (by omega) (by omega)
    rw [neg_mul, Int.neg_tdiv] at this
    omega

/-- The triangle's amplitudes are frame values (R203). -/
theorem triangleAmp_range (s : State) (hc : s.cfg.WellFormed) (h : s.phase < s.cfg.nTriangle) :
    FrameValue s.cfg (triangleAmp s) := by
  have hn : s.cfg.nTriangle % 2 = 0 ∧ 4 ≤ s.cfg.nTriangle := hc.1.2.2
  refine frameValue_of_amp hc (truncDiv_amp _ _ _ (by omega) hc.2.1.2.2.1.1 ?_)
  unfold triangleIndex
  split <;> omega

/-- The sawtooth's amplitudes are frame values (R204). -/
theorem sawtoothAmp_range (s : State) (hc : s.cfg.WellFormed) (h : s.phase < s.cfg.nSawtooth) :
    FrameValue s.cfg (sawtoothAmp s) := by
  have hn : 2 ≤ s.cfg.nSawtooth := hc.1.2.1.2.2.2.1
  exact frameValue_of_amp hc (truncDiv_amp _ _ _ (by omega) hc.2.1.2.2.1.1 (by omega))

/-- The sine table holds frame values (R205). -/
theorem sineAmp_range (s : State) (hc : s.cfg.WellFormed) : FrameValue s.cfg (sineAmp s) := by
  unfold sineAmp
  rw [List.getD_eq_getElem?_getD]
  cases h : s.cfg.sineTable[s.phase]? with
  | none => exact (frameValue_amps hc).1
  | some a => exact frameValue_of_amp hc (hc.2.1.2.2.2.2.2.2.2.2 a (List.mem_of_getElem? h))

/-- A read that succeeds gives a frame value where the port keeps its contract (R102). -/
theorem readFrame_range (s : State) (h : Nat) (held : Shape) (id : Identity) (i : Int) (k : Nat) (v : Int)
    (hD : s.DataInv) (hid : ∀ o ∈ id.former, o.shape = held ∧ o.FramesIn s.cfg)
    (hr : readFrame s h held id i k = .ok v) : FrameValue s.cfg v := by
  obtain ⟨o, ho, ⟨-, h2, h3⟩, rfl⟩ := readFrame_ok s h held id i k v hr
  rcases heldObject_cases s h held id o ho with hf | hf
  · exact hD.2.1 h i.toNat k _ (by simp [dataFrame, hf, h2, h3])
  · exact (hid o (by simp [Identity.former, hf])).2 _ h2 _ h3

/-- An amplitude is a frame value (R200). -/
theorem amplitude_range (s : State) (c : Nat) (a : Int) (hc : s.cfg.WellFormed) (hD : s.DataInv)
    (hp : s.phase < phaseCount s) (h : amplitude s c = .ok a) : FrameValue s.cfg a := by
  obtain ⟨h0, h1, h2⟩ := frameValue_amps hc
  unfold amplitude at h
  unfold phaseCount at hp
  cases hw : s.waveform <;> rw [hw] at h hp <;> simp only at h hp
  · exact readFrame_range _ _ _ _ _ _ _ hD hD.2.2.1 h
  · cases h; unfold squareAmp; split <;> assumption
  · cases h; exact triangleAmp_range s hc hp
  · cases h; unfold noiseAmp; split <;> assumption
  · cases h; exact sawtoothAmp_range s hc hp
  · cases h; exact sineAmp_range s hc
  · unfold sampleAmp at h
    split at h
    · cases h; exact h0
    · exact readFrame_range _ _ _ _ _ _ _ hD hD.2.2.2 h

/-- The amplitudes of the channels below `n`, when all can be read. -/
theorem amplitudesBelow_ok (s : State) (n : Nat) (as : List Int) (h : amplitudesBelow s n = .ok as) :
    as.length = n ∧ ∀ c < n, amplitude s c = .ok (as[c]?.getD 0) := by
  induction n generalizing as with
  | zero => cases h; simp
  | succ n ih =>
    unfold amplitudesBelow at h
    cases hb : amplitudesBelow s n with
    | error f => rw [hb] at h; cases h
    | ok bs =>
      rw [hb] at h
      cases ha : amplitude s n with
      | error f => simp only [ha] at h; cases h
      | ok a =>
        simp only [ha] at h
        cases h
        obtain ⟨hl, hc⟩ := ih bs hb
        refine ⟨by simp [hl], fun c hc' => ?_⟩
        by_cases e : c = n
        · subst e; simp [hl, ha]
        · rw [hc c (by omega), List.getElem?_append_left (by omega)]

/-- Every amplitude taken is a frame value. -/
theorem amplitudesBelow_range (s : State) (n : Nat) (as : List Int) (hi : s.cfg.WellFormed) (hD : s.DataInv)
    (hp : s.phase < phaseCount s) (h : amplitudesBelow s n = .ok as) : ∀ a ∈ as, FrameValue s.cfg a := by
  obtain ⟨hl, hc⟩ := amplitudesBelow_ok s n as h
  intro a ha
  obtain ⟨i, hlt, rfl⟩ := List.getElem_of_mem ha
  have := hc i (by omega)
  rw [List.getElem?_eq_getElem hlt] at this
  exact amplitude_range s i _ hi hD hp this

/-- A fault comes from one channel's amplitude. -/
theorem amplitudesBelow_error (s : State) (n : Nat) (f : Fault) (h : amplitudesBelow s n = .error f) :
    ∃ c < n, amplitude s c = .error f := by
  induction n with
  | zero => cases h
  | succ n ih =>
    unfold amplitudesBelow at h
    cases hb : amplitudesBelow s n with
    | error g =>
      rw [hb] at h
      cases h
      obtain ⟨c, hc, e⟩ := ih hb
      exact ⟨c, by omega, e⟩
    | ok bs =>
      rw [hb] at h
      cases ha : amplitude s n with
      | error g => simp only [ha] at h; cases h; exact ⟨n, by omega, ha⟩
      | ok a => simp only [ha] at h; cases h

/-- In a legal state an amplitude faults only where the host broke its duty (R605, R104). -/
theorem amplitude_error (s : State) (c : Nat) (f : Fault) (hI : s.Inv) (hp : s.pending = false)
    (h : amplitude s c = .error f) : f = .dataShapeChanged s.out ∧ ¬ s.HostDuty := by
  obtain ⟨-, -, hW, -, hP, hX, -, hD, -, hDw, hDs⟩ := hI
  unfold amplitude at h
  cases hw : s.waveform <;> rw [hw] at h <;> simp only at h <;> try cases h
  · have hptr := hP.2.1 hw
    rcases readFrame_cases s s.wavePtr s.waveShape s.waveIdentity s.phase 0 (fun o ho => (hDw o ho).1) with
      ⟨h1, h2⟩ | ⟨h2, ⟨h1, h3⟩ | ⟨v, h1⟩⟩
    · unfold customAmp at h
      rw [h1] at h
      cases h
      exact ⟨rfl, fun hd => h2 (hd.1 hptr)⟩
    · exfalso
      have hc := (dataShape_spec s _ _ h2 hD).2.2
      have hph := hW.1
      unfold phaseCount at hph
      rw [hw] at hph
      simp only at hph
      omega
    · unfold customAmp at h
      rw [h1] at h
      cases h
  · unfold sampleAmp at h
    split at h
    · cases h
    · rename_i hh
      have hptr := hP.2.2.1 hw
      rcases readFrame_cases s s.samplePtr s.sampleShape s.sampleIdentity (asr s.pos s.cfg.frac)
          (c % s.sampleShape.channels) (fun o ho => (hDs o ho).1) with
        ⟨h1, h2⟩ | ⟨h2, ⟨h1, h3⟩ | ⟨v, h1⟩⟩
      · rw [h1] at h
        cases h
        exact ⟨rfl, fun hd => h2 (hd.2 hptr)⟩
      · exfalso
        have hc := (dataShape_spec s _ _ h2 hD).2.2
        have hr := hX.2 hw (by simpa using hh) hp
        have hE := hP.2.2.2.2.2.2.1.2
        have hk := Nat.mod_lt c (show s.sampleShape.channels > 0 by omega)
        have h0 : 0 ≤ asr s.pos s.cfg.frac :=
          Int.ediv_nonneg (le_trans (fixedOf_nonneg _ _) hr.1) (one_pos _).le
        have h1 : asr s.pos s.cfg.frac < s.sampleEnd := Int.ediv_lt_of_lt_mul (one_pos _) hr.2
        omega
      · rw [h1] at h
        cases h

/-! ### The noise register -/

/-- R211: the register never reaches 0, and stays as wide as it is. -/
theorem lfsrNext_spec (bits r : Nat) (hb : 2 ≤ bits) (h : r ≠ 0 ∧ r < 2 ^ bits) :
    lfsrNext bits r ≠ 0 ∧ lfsrNext bits r < 2 ^ bits := by
  unfold lfsrNext
  constructor
  · intro h0
    rw [Nat.or_eq_zero_iff, Nat.shiftRight_eq_div_pow] at h0
    obtain ⟨h1, h2⟩ := h0
    have hr : r = 1 := by omega
    subst hr
    rw [Nat.shiftLeft_eq, show ((1 : Nat).testBit 0 ^^ (1 : Nat).testBit 1) = true from rfl] at h2
    simp at h2
  · refine Nat.or_lt_two_pow ?_ ?_
    · rw [Nat.shiftRight_eq_div_pow]; omega
    · rw [Nat.shiftLeft_eq]
      have h1 : (r.testBit 0 ^^ r.testBit 1).toNat ≤ 1 := Bool.toNat_le _
      have h2 : 2 ^ bits = 2 ^ (bits - 1) * 2 := by rw [← Nat.pow_succ]; congr 1; omega
      have h3 : 0 < 2 ^ (bits - 1) := by positivity
      nlinarith

/-! ### The advance -/

/-- Outside sample mode an advance moves the phase, and the noise register for NOISE (R212). -/
theorem advance_wave (s : State) (h : s.waveform ≠ .sample) :
    advance s =
      .done { s with
        phase := (s.phase + 1) % phaseCount s
        lfsr := if s.waveform = .noise then lfsrNext s.cfg.lfsrBits s.lfsr else s.lfsr } := by
  unfold advance
  cases hw : s.waveform <;> simp_all

/-- In sample mode it is the position advance (R212). -/
theorem advance_sample (s : State) (h : s.waveform = .sample) : advance s = sampleAdvance s := by
  unfold advance; rw [h]

/-- An advance that is done keeps the attributes, the ports and the time. -/
theorem advance_done_same (s t : State) (h : advance s = .done t) :
    SameAttributes s t ∧ SamePorts s t ∧ t.time = s.time := by
  by_cases hw : s.waveform = .sample
  · rw [advance_sample s hw] at h
    rcases sampleAdvance_cases s with ⟨-, e⟩ | ⟨-, -, e⟩ | ⟨-, -, -, e⟩ | ⟨-, -, -, e⟩ <;> rw [e] at h
    · cases h; exact ⟨.rfl' s, .rfl' s, rfl⟩
    · cases h; exact ⟨by constructor <;> rfl, by constructor <;> rfl, rfl⟩
    · cases h
      rw [applyPolicy_frame]
      exact ⟨by constructor <;> rfl, by constructor <;> rfl, rfl⟩
    · cases h
  · rw [advance_wave s hw] at h
    cases h
    exact ⟨by constructor <;> rfl, by constructor <;> rfl, rfl⟩

/-- A boundary request comes from un-halted sample playback with the callback on, at a position outside the range; only
the position has moved (R606, R607). -/
theorem advance_request (s t : State) (e : Edge) (h : advance s = .request t e) :
    s.waveform = .sample ∧ s.halted = false ∧ s.sampleCallback = true ∧ t = movePos s ∧ outOfRange t = true ∧
      e = crossedEdge t := by
  by_cases hw : s.waveform = .sample
  · rw [advance_sample s hw] at h
    rcases sampleAdvance_cases s with ⟨-, e⟩ | ⟨-, -, e⟩ | ⟨-, -, -, e⟩ | ⟨h1, h2, h3, e⟩ <;> rw [e] at h <;> cases h
    exact ⟨hw, h1, h3, rfl, h2, rfl⟩
  · rw [advance_wave s hw] at h; cases h

/-- The effective step is bounded as `samplePeriod` is. -/
theorem sign_mul_bound (d : Dir) (p b : Int) (h : -b ≤ p ∧ p ≤ b) : -b ≤ d.sign * p ∧ d.sign * p ≤ b := by
  cases d <;> simp only [Dir.sign] <;> omega

/-- An advance that is done keeps a legal state legal. -/
theorem advance_done_inv (s t : State) (hI : s.Inv) (hp : s.pending = false) (h : advance s = .done t) : t.Inv := by
  obtain ⟨hA, hS, ht⟩ := advance_done_same s t h
  obtain ⟨hC, hL, hW, hT, hP, hX, hB, hD⟩ := hI
  have hsusp : s.susp = none := by
    have h1 := hB.1
    rw [hp] at h1
    cases hq : s.susp with
    | none => rfl
    | some q => rw [hq] at h1; simp at h1
  have hm : t.phase < phaseCount s ∧ (t.lfsr ≠ 0 ∧ t.lfsr < 2 ^ s.cfg.lfsrBits) ∧ (t.samplePtr = 0 → t.pos = 0) ∧
      (-Config.samplePeriodMax ≤ t.pos ∧ t.pos < fixedOf s.cfg s.cfg.maxFrames + Config.samplePeriodMax) ∧
      (t.waveform = .sample → t.halted = false → rangeLo s ≤ t.pos ∧ t.pos < rangeHi s) := by
    by_cases hw : s.waveform = .sample
    · have hptr := hP.2.2.1 hw
      have hfr := hP.2.2.2.2.1 hptr
      have hoe := hP.2.2.2.2.2.2.1
      have hsp := sign_mul_bound s.dir s.samplePeriod _ hP.2.2.2.2.2.2.2
      have hr1 : 0 ≤ rangeLo s := fixedOf_nonneg _ _
      have hr2 : rangeHi s ≤ fixedOf s.cfg s.cfg.maxFrames := fixedOf_le _ (by omega)
      have hxx := hX.2 hw
      have hx1 := hX.1
      have hc : Config.samplePeriodMax = 2147483647 := rfl
      have hmv : (movePos s).pos = s.pos + s.dir.sign * s.samplePeriod := rfl
      rw [advance_sample s hw] at h
      rcases sampleAdvance_cases s with ⟨h1, e⟩ | ⟨h1, h2, e⟩ | ⟨h1, h2, -, e⟩ | ⟨-, -, -, e⟩ <;> rw [e] at h
      · cases h
        exact ⟨hW.1, hW.2.2.2.2, fun h0 => absurd h0 hptr, hx1, fun _ hh => by rw [h1] at hh; cases hh⟩
      · cases h
        have hr := hxx h1 hp
        have ho : ¬ (rangeHi s ≤ (movePos s).pos ∨ (movePos s).pos < rangeLo s) := by
          intro hc
          have := (outOfRange_iff (movePos s)).2 hc
          rw [h2] at this; cases this
        refine ⟨hW.1, hW.2.2.2.2, fun h0 => absurd h0 hptr, ?_, fun _ _ => ?_⟩ <;> omega
      · cases h
        have hr := hxx h1 hp
        have hOE : s.sampleOffset < s.sampleEnd := (rangeLo_lt_rangeHi s).1 (by omega)
        rw [applyPolicy_frame]
        rcases applyPolicy_spec s.sampleRepeat (movePos s) hOE with ⟨-, g1, g2⟩ | ⟨-, g1, g2, g3⟩
        · refine ⟨hW.1, hW.2.2.2.2, fun h0 => absurd h0 hptr, ?_, fun _ hh => ?_⟩
          · rw [g2]; omega
          · simp only [g1] at hh; cases hh
        · have hl : rangeLo (movePos s) = rangeLo s := rfl
          have hh : rangeHi (movePos s) = rangeHi s := rfl
          rw [hl] at g2
          rw [hh] at g3
          refine ⟨hW.1, hW.2.2.2.2, fun h0 => absurd h0 hptr, ?_, fun _ _ => ⟨g2, g3⟩⟩
          simp only
          omega
      · cases h
    · rw [advance_wave s hw] at h
      cases h
      refine ⟨Nat.mod_lt _ (by have := hW.1; omega), ?_, fun h0 => (hP.2.2.2.2.2.1 h0).2, hX.1, fun hc => absurd hc hw⟩
      simp only
      split
      · exact lfsrNext_spec _ _ hC.1.2.1.2.2.2.2.2.2.1.1 hW.2.2.2.2
      · exact hW.2.2.2.2
  obtain ⟨m1, m2, m3, m4, m5⟩ := hm
  rw [hA.eq hS ht] at m3 m4 m5 ⊢
  refine ⟨hC, hL, ⟨m1, hW.2.1, hW.2.2.1, hW.2.2.2.1, m2⟩, hT, ?_, ⟨m4, fun hw hh _ => m5 hw hh⟩, ⟨hB.1, ?_, ?_⟩, hD⟩
  · exact ⟨hP.1, hP.2.1, hP.2.2.1, hP.2.2.2.1, hP.2.2.2.2.1, fun h0 => ⟨(hP.2.2.2.2.2.1 h0).1, m3 h0⟩,
      hP.2.2.2.2.2.2.1, hP.2.2.2.2.2.2.2⟩
  · intro h'
    rw [show s.pending = true from h'] at hp
    cases hp
  · intro q hq
    rw [show s.susp = some q from hq] at hsusp
    cases hsusp

/-- The end of a step taken before a legal target keeps a legal state legal (R73). -/
theorem addPeriod_inv (s : State) (hI : s.Inv) (hp : s.pending = false) (ht : s.time < s.cfg.maxEndTime) :
    (addPeriod s).Inv := by
  obtain ⟨hC, hL, hW, hT, hP, hX, hB, hD⟩ := hI
  refine ⟨hC, hL, hW, ⟨?_, hT.2⟩, hP, hX, ⟨hB.1, fun h => ?_, fun q hq => ?_⟩, hD⟩
  · have := hW.2.2.1.2
    simp only [addPeriod_time, addPeriod_cfg]
    omega
  · rw [addPeriod_pending, hp] at h; cases h
  · have h1 := hB.1
    rw [addPeriod_susp] at hq
    rw [hp] at h1
    rw [Option.mem_def.1 hq] at h1
    simp at h1

/-! ### One step -/

/-- R57: a period is at least one time unit. -/
theorem period_pos {s : State} (hI : s.Inv) : 1 ≤ s.period := le_trans hI.1.1.2.1.1.1 hI.2.2.1.2.2.1.1

/-- What one step from a legal state can do (R213): it is taken, and the state stays legal; or it waits on the host's
answer, with only the position moved; or the host broke its duty. -/
theorem takeStep_spec (s : State) (hI : s.Inv) (hp : s.pending = false) (ht : s.time < s.cfg.maxEndTime) :
    (∃ t r, takeStep s = .taken t r ∧ t.Inv ∧ SameAttributes s t ∧ SamePorts s t ∧ t.time = s.time + s.period ∧
      r.time = s.time ∧ r.amps.length = s.nch ∧ ∀ a ∈ r.amps, FrameValue s.cfg a) ∨
    (∃ t cur, takeStep s = .request t cur ∧ t = movePos s ∧ s.waveform = .sample ∧ s.halted = false ∧
      s.sampleCallback = true ∧ outOfRange t = true ∧ cur.edge = crossedEdge t ∧ cur.time = s.time ∧
      cur.amps.length = s.nch ∧ ∀ a ∈ cur.amps, FrameValue s.cfg a) ∨
    (takeStep s = .faulted (.dataShapeChanged s.out) ∧ ¬ s.HostDuty) := by
  unfold takeStep
  cases ha : amplitudesBelow s s.nch with
  | error f =>
    obtain ⟨c, -, e⟩ := amplitudesBelow_error s _ f ha
    obtain ⟨rfl, h⟩ := amplitude_error s c f hI hp e
    exact .inr (.inr ⟨rfl, h⟩)
  | ok as =>
    have hl := (amplitudesBelow_ok s _ as ha).1
    have hr := amplitudesBelow_range s _ as hI.1.1 hI.2.2.2.2.2.2.2 hI.2.2.1.1 ha
    cases hv : advance s with
    | done t =>
      obtain ⟨hA, hS, e⟩ := advance_done_same s t hv
      refine .inl ⟨addPeriod t, ⟨s.time, as⟩, rfl, ?_, ?_, ?_, ?_, rfl, hl, hr⟩
      · exact addPeriod_inv t (advance_done_inv s t hI hp hv) (hS.pending.trans hp) (by rw [e, hA.cfg]; exact ht)
      · exact hA.trans' (by constructor <;> rfl)
      · exact hS.trans' (by constructor <;> rfl)
      · simp [e, hA.period]
    | request t e =>
      obtain ⟨h1, h2, h3, h4, h5, h6⟩ := advance_request s t e hv
      exact .inr (.inl ⟨t, ⟨s.time, as, e⟩, rfl, h4, h1, h2, h3, h5, h6, rfl, hl, hr⟩)

/-- A step taken keeps the host's duty: it writes neither handles, shapes nor data. -/
theorem HostDuty.of_same {s t : State} (h : SameAttributes s t) (hd : s.HostDuty) : t.HostDuty := by
  unfold State.HostDuty dataShape at *
  rw [h.wavePtr, h.samplePtr, h.waveShape, h.sampleShape, h.waveIdentity, h.sampleIdentity, h.data]
  exact hd

/-! ### The step loop -/

/-- R254: the bound of the loop is enough, and one step uses one of it. -/
theorem stepsDue_pos (s : State) (endTime : Nat) (hp : 1 ≤ s.period) (h : s.time < endTime) :
    stepsDue s endTime = stepsDue (addPeriod s) endTime + 1 := by
  unfold stepsDue
  simp only [addPeriod_time, addPeriod_period]
  have e : endTime - s.time + s.period - 1 = (endTime - s.time - 1) + s.period := by omega
  rw [e, Nat.add_div_right _ (by omega)]
  congr 1
  by_cases hc : s.time + s.period ≤ endTime
  · congr 1; omega
  · rw [Nat.div_eq_of_lt (by omega), Nat.div_eq_of_lt (by omega)]

/-- With nothing due the bound is 0. -/
theorem stepsDue_zero (s : State) (endTime : Nat) (hp : 1 ≤ s.period) (h : endTime ≤ s.time) :
    stepsDue s endTime = 0 := by
  unfold stepsDue
  exact Nat.div_eq_of_lt (by omega)

end Sys2Proof.Machine
end

