-- ==== Sys2Proof/Laws/Run.lean ====
section
/-! SUPPORT. What the step loop, the emission and a whole RUN or END can do (41_pulse_generation.md R251, R257, R270). -/

namespace Sys2Proof.Machine

/-! ### The step loop -/

/-- A list of recorded steps that a legal state can hold: legal, in order, and before the state's time. -/
abbrev StepsLegal (s : State) (endTime : Nat) (rs : List StepRecord) : Prop :=
  (∀ r ∈ rs, StepRecord.legal s.cfg s.nch endTime r ∧ r.time < s.time) ∧ rs.Pairwise fun x y => x.time < y.time

/-- One more step in order. -/
theorem StepsLegal.snoc {s t : State} {endTime : Nat} {rs : List StepRecord} {r : StepRecord} (h : StepsLegal s endTime rs)
    (hc : t.cfg = s.cfg) (hn : t.nch = s.nch) (hr : r.time = s.time) (he : s.time < endTime) (ht : s.time < t.time)
    (hl : r.amps.length = s.nch) (ha : ∀ a ∈ r.amps, FrameValue s.cfg a) : StepsLegal t endTime (rs ++ [r]) := by
  refine ⟨fun x hx => ?_, ?_⟩
  · rcases List.mem_append.1 hx with hx | hx
    · obtain ⟨h1, h2⟩ := h.1 x hx
      exact ⟨by rw [StepRecord.legal, hc, hn]; exact h1, by omega⟩
    · rw [List.mem_singleton.1 hx]
      exact ⟨⟨by omega, by omega, by rw [hc]; exact ha⟩, by omega⟩
  · refine List.pairwise_append.2 ⟨h.2, by simp, fun x hx y hy => ?_⟩
    rw [List.mem_singleton.1 hy, hr]
    exact (h.1 x hx).2

/-- What the step loop can do from a legal state (R251, R254, R320): it reaches the target, in as many steps as are due;
or it stops at a boundary request of the state `u` it had reached; or the host broke its duty. -/
theorem runSteps_spec (endTime : Nat) (k : Nat) (s : State) (hE : endTime ≤ s.cfg.maxEndTime) (steps : List StepRecord)
    (hI : s.Inv) (hp : s.pending = false) (hs : StepsLegal s endTime steps) (hk : k = stepsDue s endTime) :
    (∃ t rs, runSteps endTime k s steps = .finished t rs ∧ t.Inv ∧ SameAttributes s t ∧ SamePorts s t ∧
      endTime ≤ t.time ∧ t.time = s.time + k * s.period ∧ StepsLegal t endTime rs) ∨
    (∃ u rs cur, runSteps endTime k s steps = .suspended (movePos u) rs cur ∧ u.Inv ∧ SameAttributes s u ∧
      SamePorts s u ∧ u.time < endTime ∧ StepsLegal u endTime rs ∧ u.waveform = .sample ∧ u.halted = false ∧
      u.sampleCallback = true ∧ outOfRange (movePos u) = true ∧ cur.edge = crossedEdge (movePos u) ∧
      cur.time = u.time ∧ cur.amps.length = u.nch ∧ ∀ a ∈ cur.amps, FrameValue u.cfg a) ∨
    (runSteps endTime k s steps = .faulted (.dataShapeChanged s.out) ∧ ¬ s.HostDuty) := by
  induction k generalizing s steps with
  | zero =>
    refine .inl ⟨s, steps, rfl, hI, .rfl' s, .rfl' s, ?_, by simp, hs⟩
    by_contra hc
    have := stepsDue_pos s endTime (period_pos hI) (by omega)
    omega
  | succ k ih =>
    have hper : 1 ≤ s.period := period_pos hI
    have ht : s.time < endTime := by
      by_contra hc
      have := stepsDue_zero s endTime hper (by omega)
      omega
    unfold runSteps
    rw [if_pos ht]
    rcases takeStep_spec s hI hp (by omega) with
      ⟨t, r, h1, h2, h3, h4, h5, h6, h7, h8⟩ | ⟨t, cur, h1, h2, h3, h4, h5, h6, h7, h8, h9, h10⟩ | ⟨h1, h2⟩
    · rw [h1]
      simp only
      have hd : k = stepsDue t endTime := by
        have e : stepsDue t endTime = stepsDue (addPeriod s) endTime := by
          unfold stepsDue; rw [h5, h3.period]; rfl
        have := stepsDue_pos s endTime hper ht
        omega
      have hs' : StepsLegal t endTime (steps ++ [r]) := hs.snoc h3.cfg h3.nch h6 ht (by omega) h7 h8
      rcases ih t (by rw [h3.cfg]; exact hE) (steps ++ [r]) h2 (h4.pending.trans hp) hs' hd with
        ⟨u, rs, g1, g2, g3, g4, g5, g6, g7⟩ | ⟨u, rs, cur, g1, g2, g3, g4, g5⟩ | ⟨g1, g2⟩
      · refine .inl ⟨u, rs, g1, g2, h3.trans' g3, h4.trans' g4, g5, ?_, g7⟩
        rw [g6, h5, h3.period, Nat.succ_mul]; omega
      · exact .inr (.inl ⟨u, rs, cur, g1, g2, h3.trans' g3, h4.trans' g4, g5⟩)
      · exact .inr (.inr ⟨by rw [g1, h4.out], fun hd' => g2 (HostDuty.of_same h3 hd')⟩)
    · rw [h1]
      subst h2
      exact .inr (.inl ⟨s, steps, cur, rfl, hI, .rfl' s, .rfl' s, ht, hs, h3, h4, h5, h6, h7, h8, h9, h10⟩)
    · rw [h1]
      exact .inr (.inr ⟨rfl, h2⟩)

/-! ### Level -/

/-- The level of a frame value at a legal volume is between the extremes at full volume (R255). -/
theorem level_range {p : Config.Params} (hp : p.WellFormed) (a : Int) (v : Nat) (ha : FrameValue p a) (hv : v ≤ p.volMax) :
    LevelValue p (level p a v) := by
  obtain ⟨-, ⟨-, -, hA, -⟩, -⟩ := hp
  obtain ⟨h1, h2⟩ := ha
  have hv0 : (0 : Int) ≤ v := by omega
  have hv' : (v : Int) ≤ p.volMax := by exact_mod_cast hv
  exact ⟨Int.ediv_le_ediv (by positivity) (by nlinarith), Int.ediv_le_ediv (by positivity) (by nlinarith)⟩

/-- Silence is a level. -/
theorem levelValue_zero {p : Config.Params} (hp : p.WellFormed) : LevelValue p 0 := by
  simpa [level, asr] using level_range hp 0 0 (frameValue_amps hp).1 (Nat.zero_le _)

/-! ### Emission -/

/-- A level depends on the configuration and the volumes alone. -/
theorem levelOf_congr {s t : State} (hc : t.cfg = s.cfg) (h : t.volume = s.volume) (c : Nat) (r : StepRecord) : levelOf t c r = levelOf s c r := by
  simp [levelOf, State.volumeAt, h, hc]

/-- A channel's transactions depend on the configuration, the volumes and the waveform alone. -/
theorem channelTxs_congr {s t : State} (hc : t.cfg = s.cfg) (hv : t.volume = s.volume) (hw : t.waveform = s.waveform) (c : Nat)
    (rs : List StepRecord) (l : Int) : channelTxs t c rs l = channelTxs s c rs l := by
  induction rs generalizing l with
  | nil => rfl
  | cons r rs ih => simp only [channelTxs, levelOf_congr hc hv, sinkKind, hw, hc, ih]

/-- A channel's last level depends on the configuration and the volumes alone. -/
theorem channelLast_congr {s t : State} (hc : t.cfg = s.cfg) (hv : t.volume = s.volume) (c : Nat) (rs : List StepRecord) (l : Int) :
    channelLast t c rs l = channelLast s c rs l := by
  induction rs generalizing l with
  | nil => rfl
  | cons r rs ih => simp only [channelLast, levelOf_congr hc hv, ih]

/-- One channel's pass writes `last` and the output ports and nothing else. -/
theorem emitChannel_frame (steps : List StepRecord) (c : Nat) (s : State) :
    emitChannel steps c s = { s with last := (emitChannel steps c s).last, out := (emitChannel steps c s).out } := rfl

/-- The passes keep the number of last-level registers. -/
theorem emitBelow_length (steps : List StepRecord) (n : Nat) (s : State) :
    (emitBelow steps n s).last.length = s.last.length := by
  induction n with
  | zero => rfl
  | succ n ih => simpa [emitBelow, emitChannel] using ih

/-- What the passes of channels `0 .. n-1` do (R257): `last` and the output ports change, channel by channel, and nothing
else. -/
theorem emitBelow_spec (steps : List StepRecord) (n : Nat) (s : State) :
    emitBelow steps n s =
        { s with last := (emitBelow steps n s).last, out := (emitBelow steps n s).out } ∧
      (∀ c < s.last.length, (emitBelow steps n s).lastAt c = if c < n then channelLast s c steps (s.lastAt c) else s.lastAt c) ∧
      (emitBelow steps n s).out =
        s.out ++ ((List.range n).flatMap fun c => channelTxs s c steps (s.lastAt c)).map .sink ∧
      ∀ c, s.last.length ≤ c → (emitBelow steps n s).lastAt c = s.lastAt c := by
  induction n with
  | zero => exact ⟨rfl, fun c _ => by simp [emitBelow], by simp [emitBelow], fun c _ => rfl⟩
  | succ n ih =>
    obtain ⟨h1, h2, h3, h4⟩ := ih
    have hg : (emitBelow steps n s).cfg = s.cfg := by rw [h1]
    have hv : (emitBelow steps n s).volume = s.volume := by rw [h1]
    have hw : (emitBelow steps n s).waveform = s.waveform := by rw [h1]
    have hlen := emitBelow_length steps n s
    have hln : (emitBelow steps n s).lastAt n = s.lastAt n := by
      by_cases hn : n < s.last.length
      · rw [h2 n hn, if_neg (by omega)]
      · exact h4 n (by omega)
    refine ⟨?_, fun c hc => ?_, ?_, fun c hc => ?_⟩
    · have key : ∀ A B, ({ emitBelow steps n s with last := A, out := B } : State) = { s with last := A, out := B } := by
        intro A B; rw [h1]
      exact (emitChannel_frame steps n _).trans (key _ _)
    · unfold emitBelow emitChannel
      show State.lastAt (State.setLast _ _ _) c = _
      by_cases e : n = c
      · subst e
        rw [setLast_lastAt_same _ _ _ (by omega), if_pos (by omega), hln, channelLast_congr hg hv]
      · rw [setLast_lastAt_other _ _ _ _ e, h2 c hc]
        by_cases hcn : c < n
        · rw [if_pos hcn, if_pos (by omega)]
        · rw [if_neg hcn, if_neg (by omega)]
    · unfold emitBelow emitChannel
      simp only [emit_out, setLast_out]
      rw [h3, hln, channelTxs_congr hg hv hw, List.range_succ, List.flatMap_append, List.map_append, List.append_assoc]
      simp
    · unfold emitBelow emitChannel
      show State.lastAt (State.setLast _ _ _) c = _
      by_cases e : n = c
      · subst e
        rw [setLast_beyond _ _ _ (hlen.trans_le hc), h4 n hc]
      · rw [setLast_lastAt_other _ _ _ _ e, h4 c hc]

/-- `EmitSteps(u)` writes `last` and the output ports and nothing else. -/
theorem emitSteps_frame (steps : List StepRecord) (s : State) :
    emitSteps steps s = { s with last := (emitSteps steps s).last, out := (emitSteps steps s).out } :=
  (emitBelow_spec steps s.nch s).1

/-- The level a channel emitted last after the steps (R256, R259). -/
theorem emitSteps_lastAt (steps : List StepRecord) (s : State) (c : Nat) (hc : c < s.last.length) :
    (emitSteps steps s).lastAt c = if c < s.nch then channelLast s c steps (s.lastAt c) else s.lastAt c :=
  (emitBelow_spec steps s.nch s).2.1 c hc

/-- The transactions of a finished step list, channel-major (R257). -/
theorem emitSteps_out (steps : List StepRecord) (s : State) :
    (emitSteps steps s).out =
      s.out ++ ((List.range s.nch).flatMap fun c => channelTxs s c steps (s.lastAt c)).map .sink :=
  (emitBelow_spec steps s.nch s).2.2.1

/-- `EmitSteps(u)` keeps the attributes. -/
theorem emitSteps_same (steps : List StepRecord) (s : State) : SameAttributes s (emitSteps steps s) := by
  rw [emitSteps_frame]; constructor <;> rfl

/-- `EmitSteps(u)` keeps the number of last-level registers. -/
theorem emitSteps_length (steps : List StepRecord) (s : State) : (emitSteps steps s).last.length = s.last.length :=
  emitBelow_length steps s.nch s

/-- The last level of legal steps is in the range of levels. -/
theorem channelLast_range (s : State) (c n e : Nat) (rs : List StepRecord) (l : Int)
    (hc : s.cfg.WellFormed) (hl : LevelValue s.cfg l) (hv : s.volumeAt c ≤ s.cfg.volMax)
    (hr : ∀ r ∈ rs, StepRecord.legal s.cfg n e r) : LevelValue s.cfg (channelLast s c rs l) := by
  induction rs generalizing l with
  | nil => exact hl
  | cons r rs ih =>
    refine ih _ ?_ fun x hx => hr x (List.mem_cons_of_mem _ hx)
    unfold levelOf
    refine level_range hc _ _ ?_ hv
    cases hx : r.amps[c]? with
    | none => exact (frameValue_amps hc).1
    | some a => exact (hr r (by simp)).2.2 a (List.mem_of_getElem? hx)

/-- Emission keeps a legal state legal. -/
theorem emitSteps_inv (steps : List StepRecord) (s : State) (e : Nat) (hI : s.Inv)
    (hp : s.pending = false) (hs : StepsLegal s e steps) : (emitSteps steps s).Inv := by
  obtain ⟨hC, hL, hW, hT, hP, hX, hB, hD⟩ := hI
  have hlast : ∀ c < s.cfg.maxChannels, LevelValue s.cfg ((emitSteps steps s).lastAt c) := by
    intro c hc
    rw [emitSteps_lastAt steps s c (by rw [hC.2.2]; exact hc)]
    split
    · exact channelLast_range s c s.nch e steps _ hC.1 (hT.2 c hc) (hW.2.2.2.1 c hc) fun r hr => (hs.1 r hr).1
    · exact hT.2 c hc
  have h1 := hB.1
  rw [hp] at h1
  have hsusp : s.susp = none := by
    cases hq : s.susp with
    | none => rfl
    | some q => rw [hq] at h1; simp at h1
  have hlen : (emitSteps steps s).last.length = s.cfg.maxChannels := (emitSteps_length steps s).trans hC.2.2
  rw [emitSteps_frame] at hlast hlen ⊢
  refine ⟨⟨hC.1, hC.2.1, hlen⟩, hL, hW, ⟨hT.1, hlast⟩, hP, hX, ⟨hB.1, hB.2.1, fun q hq => ?_⟩, hD⟩
  have : s.susp = some q := hq
  rw [hsusp] at this
  cases this

/-! ### A whole RUN or END -/

/-- How `continueCommand` is built of the loop's three cases. -/
theorem continueCommand_cases (kind : SuspKind) (endTime : Nat) (steps : List StepRecord) (s : State) :
    (∃ t rs, runSteps endTime (stepsDue s endTime) s steps = .finished t rs ∧
      continueCommand kind endTime steps s = .next ((applyShift kind (emitSteps rs t)).respond .ok)) ∨
    (∃ t rs cur, runSteps endTime (stepsDue s endTime) s steps = .suspended t rs cur ∧
      continueCommand kind endTime steps s = .next (enterBoundaryWait kind endTime rs cur t)) ∨
    (∃ f, runSteps endTime (stepsDue s endTime) s steps = .faulted f ∧
      continueCommand kind endTime steps s = .fault f) := by
  unfold continueCommand
  cases h : runSteps endTime (stepsDue s endTime) s steps with
  | finished t rs => exact .inl ⟨t, rs, rfl, rfl⟩
  | suspended t rs cur => exact .inr (.inl ⟨t, rs, cur, rfl, rfl⟩)
  | faulted f => exact .inr (.inr ⟨f, rfl, rfl⟩)

end Sys2Proof.Machine
end

