-- ==== Sys2Proof/Tests/Slice0.lean ====
section
/-! SUPPORT. The model's own tests: the well-formedness smoke, the decoding of every constructor's words, small vectors of
spec/95_test_vectors.md, and for every statement with hypotheses a state and operands that meet them. Expected values come
from spec/, never from the model. -/

namespace Sys2Proof.Tests

open Sys2Proof.Machine

/-! ### Configuration and well-formedness -/

/-- R8 holds of the parameters R7 gives. -/
theorem test_config : Config.default.WellFormed := by decide

/-- Another configuration R7 allows: two channels, AddPulse in sample mode, a quarter of the fractional bits. -/
def small : Config.Params :=
  { Config.default with
    frac := 5, periodReset := 32, maxChannels := 2, nSquare := 8, lfsrBits := 7, lfsrSeed := 5, sampleSink := .pulse }

theorem test_config_small : small.WellFormed := by decide

/-- R8: an odd N_TRIANGLE, one of 2, a phase count of 1 and a delta of 33 bits. -/
theorem test_config_ill_formed :
    ¬ ({ Config.default with nTriangle := 31 } : Config.Params).DeltasFit ∧
      ¬ ({ Config.default with nTriangle := 2 } : Config.Params).DeltasFit ∧
      ¬ ({ Config.default with nNoise := 1 } : Config.Params).DeltasFit ∧
      ¬ ({ Config.default with volMax := 2 ^ 30 } : Config.Params).DeltasFit := by decide

/-- What the widths of R67, R127 and R464 leave out: positions beyond 64 bits, nine channels, frames beyond int32. -/
theorem test_config_too_wide :
    ¬ ({ Config.default with frac := 40, timeBits := 64 } : Config.Params).WidthsFit ∧
      ¬ ({ Config.default with maxChannels := 9 } : Config.Params).WidthsFit ∧
      ¬ ({ Config.default with maxFrames := 2 ^ 31 } : Config.Params).WidthsFit := by decide

/-- A configuration whose sine table is plain: N_SINE of 4. -/
def four : Config.Params := { small with nSine := 4, sineTable := [0, 32767, 0, -32767] }

/-- R205: `sin` of 0, a quarter, a half and three quarters of a turn. -/
theorem four_sine (p : Config.Params) (hn : p.nSine = 4) (ha : p.ampMax = 32767) (ht : p.sineTable = [0, 32767, 0, -32767]) :
    p.SineTableByFormula := by
  intro i hi x hx
  have key : (p.sineTable.getD i 0 : ℝ) = x := by
    rw [hx, ht, ha, hn]
    rw [hn] at hi
    interval_cases i
    · simp
    · rw [show 2 * Real.pi * ((1 : ℕ) : ℝ) / ((4 : ℕ) : ℝ) = Real.pi / 2 by push_cast; ring, Real.sin_pi_div_two]; simp
    · rw [show 2 * Real.pi * ((2 : ℕ) : ℝ) / ((4 : ℕ) : ℝ) = Real.pi by push_cast; ring, Real.sin_pi]; simp
    · rw [show 2 * Real.pi * ((3 : ℕ) : ℝ) / ((4 : ℕ) : ℝ) = Real.pi / 2 + Real.pi by push_cast; ring, Real.sin_add_pi,
        Real.sin_pi_div_two]
      simp
  rw [key, sub_self, abs_zero]
  exact ⟨by norm_num, fun h => by norm_num at h⟩

/-- R205: a table of zeros is not the formula's. -/
theorem test_config_sine_zeros : ¬ ({ four with sineTable := [0, 0, 0, 0] } : Config.Params).SineTableByFormula := by
  intro h
  have := (h 1 (by decide) 32767 (by
    show (32767 : ℝ) = ((32767 : ℤ) : ℝ) * Real.sin (2 * Real.pi * ((1 : ℕ) : ℝ) / ((4 : ℕ) : ℝ))
    rw [show 2 * Real.pi * ((1 : ℕ) : ℝ) / ((4 : ℕ) : ℝ) = Real.pi / 2 by push_cast; ring, Real.sin_pi_div_two]
    norm_num)).1
  norm_num at this

/-- R8: an ill-formed configuration is refused. -/
theorem test_config_refused : State.resetWith { four with nTriangle := 31 } (four_sine _ rfl rfl rfl) = none := by decide

theorem test_wf_refuses_int32_high : Instr.wellFormed (.setAttrWaveform (2 ^ 31)) = false := by decide
theorem test_wf_refuses_int32_low : Instr.wellFormed (.attach (-2 ^ 31 - 1)) = false := by decide
theorem test_wf_refuses_reply_int32 : Instr.wellFormed (.boundaryReply (2 ^ 32)) = false := by decide
theorem test_wf_refuses_uint32 : Instr.wellFormed (.setPtrSample (2 ^ 32)) = false := by decide
theorem test_wf_refuses_notify_uint32 : Instr.wellFormed (.dataNotifyReplaced (2 ^ 32)) = false := by decide
theorem test_wf_refuses_uint64 : Instr.wellFormed (.run (2 ^ 64)) = false := by decide
theorem test_wf_refuses_end_uint64 : Instr.wellFormed (.endChunk (2 ^ 64)) = false := by decide
theorem test_wf_refuses_channel : Instr.wellFormed (.getAttrVolumeN 8) = false := by decide
theorem test_wf_refuses_set_channel : Instr.wellFormed (.setAttrVolumeN 8 0) = false := by decide
theorem test_wf_refuses_set_channel_value : Instr.wellFormed (.setAttrVolumeN 0 (2 ^ 31)) = false := by decide
theorem test_wf_refuses_key : Instr.wellFormed (.reservedOp0 256 0) = false := by decide
theorem test_wf_refuses_rsv : Instr.wellFormed (.reservedOp0 0 (2 ^ 20)) = false := by decide
theorem test_wf_refuses_high_op_low : Instr.wellFormed (.reservedOpcToOpf 11 0 0) = false := by decide
theorem test_wf_refuses_high_op_high : Instr.wellFormed (.reservedOpcToOpf 16 0 0) = false := by decide
theorem test_wf_refuses_high_key : Instr.wellFormed (.reservedOpcToOpf 12 256 0) = false := by decide
theorem test_wf_refuses_high_rsv : Instr.wellFormed (.reservedOpcToOpf 12 0 (2 ^ 20)) = false := by decide

/-! ### Decoding: words written out from 30_encoding.md R151, R152, R154, R155 and R156 -/

theorem test_decode_setAttrWaveform : decode [0x10100000, 0x00000002] = .command (.setAttrWaveform 2) [] := by decide
theorem test_decode_setAttrDutyCycle : decode [0x10200000, 0xFFFFFFFD] = .command (.setAttrDutyCycle (-3)) [] := by decide
theorem test_decode_setAttrPeriod : decode [0x10300000, 0x00643A2F] = .command (.setAttrPeriod 6568495) [] := by decide
theorem test_decode_setAttrPhase : decode [0x10400000, 0x00000028] = .command (.setAttrPhase 40) [] := by decide
theorem test_decode_setAttrVolume : decode [0x10600000, 0x00007FFF] = .command (.setAttrVolume 32767) [] := by decide
theorem test_decode_setAttrVolumeN : decode [0x11100000, 0x00004000] = .command (.setAttrVolumeN 1 16384) [] := by decide
theorem test_decode_setAttrVolumeN_last : decode [0x11700000, 0x00000001] = .command (.setAttrVolumeN 7 1) [] := by decide
theorem test_decode_setAttrSampleOffset : decode [0x12000000, 0x00000009] = .command (.setAttrSampleOffset 9) [] := by decide
theorem test_decode_setAttrSampleEnd : decode [0x12100000, 0x00000004] = .command (.setAttrSampleEnd 4) [] := by decide
theorem test_decode_setAttrSamplePeriod : decode [0x12200000, 0x80000000] = .command (.setAttrSamplePeriod (-2147483648)) [] := by decide
theorem test_decode_setAttrSampleRepeat : decode [0x12300000, 0x00000002] = .command (.setAttrSampleRepeat 2) [] := by decide
theorem test_decode_setAttrSampleCallback : decode [0x12400000, 0x00000005] = .command (.setAttrSampleCallback 5) [] := by decide
theorem test_decode_getAttrWaveform : decode [0x20100000] = .command .getAttrWaveform [] := by decide
theorem test_decode_getAttrDutyCycle : decode [0x20200000] = .command .getAttrDutyCycle [] := by decide
theorem test_decode_getAttrPeriod : decode [0x20300000] = .command .getAttrPeriod [] := by decide
theorem test_decode_getAttrPhase : decode [0x20400000] = .command .getAttrPhase [] := by decide
theorem test_decode_getAttrPhaseCount : decode [0x20500000] = .command .getAttrPhaseCount [] := by decide
theorem test_decode_getAttrVolume : decode [0x20600000] = .command .getAttrVolume [] := by decide
theorem test_decode_getAttrStatus : decode [0x20700000] = .command .getAttrStatus [] := by decide
theorem test_decode_getAttrNumChannels : decode [0x20800000] = .command .getAttrNumChannels [] := by decide
theorem test_decode_getAttrVolumeN : decode [0x21700000] = .command (.getAttrVolumeN 7) [] := by decide
theorem test_decode_getAttrSampleOffset : decode [0x22000000] = .command .getAttrSampleOffset [] := by decide
theorem test_decode_getAttrSampleEnd : decode [0x22100000] = .command .getAttrSampleEnd [] := by decide
theorem test_decode_getAttrSamplePeriod : decode [0x22200000] = .command .getAttrSamplePeriod [] := by decide
theorem test_decode_getAttrSampleRepeat : decode [0x22300000] = .command .getAttrSampleRepeat [] := by decide
theorem test_decode_getAttrSampleCallback : decode [0x22400000] = .command .getAttrSampleCallback [] := by decide
theorem test_decode_getAttrSamplePosition : decode [0x22500000] = .command .getAttrSamplePosition [] := by decide
theorem test_decode_setPtrWaveform : decode [0x30100000, 0x00000005] = .command (.setPtrWaveform 5) [] := by decide
theorem test_decode_setPtrSample : decode [0x30200000, 0xFFFFFFFF] = .command (.setPtrSample 4294967295) [] := by decide
theorem test_decode_getPtrWaveform : decode [0x40100000] = .command .getPtrWaveform [] := by decide
theorem test_decode_getPtrSample : decode [0x40200000] = .command .getPtrSample [] := by decide
theorem test_decode_run : decode [0x50000000, 0x01400000, 0x00000000] = .command (.run 20971520) [] := by decide
theorem test_decode_run_high_word : decode [0x50000000, 0x00000000, 0x00000001] = .command (.run 4294967296) [] := by decide
theorem test_decode_endChunk : decode [0x60000000, 0x00480000, 0x00000000] = .command (.endChunk 4718592) [] := by decide
theorem test_decode_reset : decode [0x70000000] = .command .reset [] := by decide
theorem test_decode_attach : decode [0x80000000, 0xFFFFFFFF] = .command (.attach (-1)) [] := by decide
theorem test_decode_detach : decode [0x90000000] = .command .detach [] := by decide
theorem test_decode_dataNotifyReplaced : decode [0xA0100000, 0x00000001] = .command (.dataNotifyReplaced 1) [] := by decide
theorem test_decode_dataNotifyDisposed : decode [0xA0200000, 0x00000003] = .command (.dataNotifyDisposed 3) [] := by decide
theorem test_decode_boundaryReply : decode [0xB0000000, 0x00000002] = .command (.boundaryReply 2) [] := by decide
theorem test_decode_reservedOp0 : decode [0x00000000] = .command (.reservedOp0 0 0) [] := by decide
theorem test_decode_reservedOpcToOpf : decode [0xC0000000] = .command (.reservedOpcToOpf 12 0 0) [] := by decide
theorem test_decode_reservedOpcToOpf_fields : decode [0xFFFFFFFF] = .command (.reservedOpcToOpf 15 255 1048575) [] := by decide
theorem test_decode_rejects_reserved_bits : decode [0x20700001, 7] = .illegal (.reservedBits 2) [7] := by decide
theorem test_decode_rejects_keyless : decode [0x70100000] = .illegal (.keyOnKeyless 7) [] := by decide
theorem test_decode_rejects_unlisted_set : decode [0x19900000, 0x00000005] = .illegal (.unlistedKey 1) [] := by decide
theorem test_decode_rejects_unlisted_get : decode [0x29900000, 9] = .illegal (.unlistedKey 2) [9] := by decide
theorem test_decode_rejects_unlisted_pointer : decode [0x30300000, 1] = .illegal (.unlistedKey 3) [] := by decide
theorem test_decode_rejects_unlisted_kind : decode [0xA0300000, 0x00000001, 3] = .illegal (.unlistedKey 10) [3] := by decide
theorem test_decode_rejects_read_only : decode [0x10700000, 0x00000000] = .illegal .readOnlyKey [] := by decide
theorem test_decode_rejects_incomplete : decode [0x50000000, 1] = .incomplete := by decide
theorem test_decodeTableWord_run : decodeTableWord 96 0x000000000140000050000000 = some (.run 20971520) := by decide
theorem test_decodeTableWord_refuses : decodeTableWord 32 0x20700001 = none := by decide

/-! ### Assembler text: R161, R162 and 95_test_vectors.md -/

theorem test_assemble_samples : assembleLine Config.default "RUN 1.5s" = some [0x50000000, 0x00180000, 0] := by decide
theorem test_assemble_negative : assembleLine Config.default "SET DUTY_CYCLE, -3" = some [0x10200000, 0xFFFFFFFD] := by decide
theorem test_assemble_hex_word : assembleLine Config.default "SET SAMPLE_PERIOD, 0x80000000 ; V60" = some [0x12200000, 0x80000000] := by decide
theorem test_assemble_number_key : assembleLine Config.default "SET 0x99, 5" = some [0x19900000, 5] := by decide
theorem test_assemble_policy : assembleLine Config.default "REPLY PALINDROME" = some [0xB0000000, 2] := by decide
theorem test_assemble_chunk : assembleLine Config.default "CHUNK 16s" = some [0x50000000, 0x01000000, 0, 0x60000000, 0x01000000, 0] := by decide
theorem test_assemble_pan : assembleLine Config.default "PAN 1, 2" = some [0x11000000, 1, 0x11100000, 2] := by decide
theorem test_assemble_mute : assembleLine Config.default "MUTE" = some [0x10600000, 0] := by decide
theorem test_assemble_retrigger : assembleLine Config.default "RETRIGGER" = some [0x10400000, 0] := by decide
theorem test_assemble_wave : assembleLine Config.default "WAVE 5" = some [0x30100000, 5] := by decide
theorem test_assemble_sample : assembleLine Config.default "SAMPLE 1" = some [0x30200000, 1] := by decide
theorem test_assemble_small : assembleLine small "RUN 1.5s" = some [0x50000000, 48, 0] := by decide
theorem test_assemble_inexact : assembleLine Config.default "RUN 0.1s" = none := by decide

/-! ### States of 95_test_vectors.md -/

/-- The state a result holds. -/
def after (r : Result) : State :=
  match r with
  | .next t => t
  | .fault _ => State.reset
  | .refused _ => State.reset

/-- What an instruction puts on the output ports. -/
def sent (i : Instr) (s : State) : List PortEvent := (after (exec i s)).out.drop s.out.length

/-- A result that is a fault. -/
def faults (r : Result) : Bool :=
  match r with
  | .next _ => false
  | .fault _ => true
  | .refused _ => false

/-- An AddPulse on channel 0 at a whole sample. -/
def pulse (t : Nat) (d : Int) : PortEvent := .sink ⟨.addPulse, 0, t * 2 ^ 20, d⟩

/-- An AddFrame on channel 0 at a whole sample. -/
def frame (t : Nat) (d : Int) : PortEvent := .sink ⟨.addFrame, 0, t * 2 ^ 20, d⟩

/-- The response 0. -/
def done : PortEvent := .response 0 none

/-- The Data objects of the vectors: 1 and 5, and 7 of one frame. -/
def objects : List DataEntry :=
  [⟨1, objectOf 1 [[100], [200], [300]]⟩, ⟨5, objectOf 1 [[-1000], [0], [1000], [0]]⟩, ⟨7, objectOf 1 [[5]]⟩]

/-- From reset, with the data. -/
def idle : State := { State.reset with data := objects }

/-- "Std": attached on one channel at full volume. -/
def std : State := after (exec (.setAttrVolume 32767) (after (exec (.attach 1) idle)))

/-- Half volume, sample 1 selected, playing by the policy. -/
def playing (p : Policy) : State :=
  after (exec (.setPtrSample 1) (after (exec (.setAttrVolume 16384) (after (exec (.setAttrSampleRepeat p.code) std)))))

/-- The same with the callback on. -/
def asking : State := after (exec (.setAttrSampleCallback 1) (playing .none))

/-- P4 after its RUN: a boundary request is pending. -/
def waiting : State := after (exec (.run (8 * 2 ^ 20)) asking)

/-- The custom waveform of V6. -/
def custom : State := after (exec (.setPtrWaveform 5) std)

/-- Playback of an empty range (V41). -/
def halted : State := after (exec (.setAttrSampleEnd 0) (playing .none))

/-- The sample of `playing` in the other configuration. -/
def smallPlaying : State :=
  after (exec (.setPtrSample 1) (after (exec (.setAttrVolume 16384) (after (exec (.attach 1)
    { State.powerOn small with data := objects, samplePeriod := 32 })))))

/-- The host puts another object of three frames behind handle 1. -/
def swapped (s : State) : State := s.provideObject 1 (objectOf 1 [[7], [8], [9]])

/-- The host disposes object 1 and provides another of three frames under the same handle. -/
def reprovided (s : State) : State := swapped (s.disposeObject 1)

/-- The invariant of a state with the defaults, from its decidable parts. -/
theorem legal (s : State) (hc : s.cfg = Config.default := by rfl)
    (h1 : s.volume.length = 8 ∧ s.last.length = 8 := by decide) (h2 : s.LifecycleInv := by decide)
    (h3 : s.WaveInv := by decide) (h4 : s.TimeInv := by decide) (h5 : s.PointerInv := by decide)
    (h6 : s.PositionInv := by decide) (h7 : s.PendingInv := by decide) (h8 : dataWf s.data := by decide)
    (h9 : (∀ o ∈ s.waveIdentity.former, o.shape = s.waveShape) ∧ ∀ o ∈ s.sampleIdentity.former, o.shape = s.sampleShape := by
      decide) : s.Inv := by
  refine ⟨?_, h2, h3, h4, h5, h6, h7, dataInv_of_int16 s (by rw [hc]; decide) h8 h9.1 h9.2⟩
  rw [State.ConfigInv, hc]
  exact ⟨test_config, h1⟩

theorem std_inv : std.Inv := legal _
theorem idle_inv : idle.Inv := legal _
theorem playing_inv : (playing .palindrome).Inv := legal _
theorem asking_inv : asking.Inv := legal _
theorem waiting_inv : waiting.Inv := legal _
theorem custom_inv : custom.Inv := legal _
theorem halted_inv : halted.Inv := legal _

/-! ### One step each -/

/-- R400. -/
theorem test_setAttrWaveform_selects : (after (exec (.setAttrWaveform 2) { std with phase := 7 })).phase = 0 := by decide
/-- V72. -/
theorem test_setAttrWaveform_same_keeps_phase : (after (exec (.setAttrWaveform 1) { std with phase := 4 })).phase = 4 := by decide
/-- V50. -/
theorem test_setAttrDutyCycle_high : (after (exec (.setAttrDutyCycle 100) idle)).duty = 15 := by decide
/-- V51. -/
theorem test_setAttrDutyCycle_low : (after (exec (.setAttrDutyCycle (-3)) idle)).duty = 1 := by decide
/-- V53. -/
theorem test_setAttrPeriod_low : (after (exec (.setAttrPeriod (-5)) idle)).period = 1 := by decide
/-- V54. -/
theorem test_setAttrPeriod_high : (after (exec (.setAttrPeriod 0x7FFFFFFF) idle)).period = 0x7FFFFFFF := by decide
/-- V55. -/
theorem test_setAttrPhase_high : (after (exec (.setAttrPhase 40) { idle with waveform := .triangle })).phase = 31 := by decide
/-- R403. -/
theorem test_setAttrPhase_restarts : (after (exec (.setAttrPhase 9) { playing .none with pos := 0x200000 })).pos = 0 := by decide
/-- V57. -/
theorem test_setAttrVolume_high : (after (exec (.setAttrVolume 40000) idle)).volume = List.replicate 8 32767 := by decide
/-- V59. -/
theorem test_setAttrVolumeN_one : (after (exec (.setAttrVolumeN 1 16384) idle)).volume = [0, 16384, 0, 0, 0, 0, 0, 0] := by decide
/-- D34: two channels list two VOLUME_n keys. -/
theorem test_setAttrVolumeN_unlisted : sent (.setAttrVolumeN 2 1) smallPlaying = [.response 0xFFFFFFFE none] := by decide
/-- V62. -/
theorem test_setAttrSampleOffset_clamps : ((after (exec (.setAttrSampleOffset 9) (playing .none))).sampleOffset, (after (exec (.setAttrSampleOffset 9) (playing .none))).halted) = (3, true) := by decide
/-- R406. -/
theorem test_setAttrSampleOffset_moves : (after (exec (.setAttrSampleOffset 1) (playing .none))).pos = 0x100000 := by decide
/-- V68. -/
theorem test_setAttrSampleEnd_refused : sent (.setAttrSampleEnd 4) idle = [.response 0xFFFFFFFC none] := by decide
/-- R407. -/
theorem test_setAttrSampleEnd_backward : (after (exec (.setAttrSampleEnd 2) { playing .none with samplePeriod := -1 })).pos = 0x100000 := by decide
/-- V60. -/
theorem test_setAttrSamplePeriod_low : (after (exec (.setAttrSamplePeriod (-2147483648)) idle)).samplePeriod = -0x7FFFFFFF := by decide
/-- V66. -/
theorem test_setAttrSampleRepeat_refused : sent (.setAttrSampleRepeat 3) idle = [.response 0xFFFFFFFD none] := by decide
/-- V64. -/
theorem test_setAttrSampleRepeat_sets : (after (exec (.setAttrSampleRepeat 2) idle)).sampleRepeat = .palindrome := by decide
/-- V61. -/
theorem test_setAttrSampleCallback_clamps : (after (exec (.setAttrSampleCallback 5) idle)).sampleCallback = true := by decide
/-- V70. -/
theorem test_getAttrWaveform : sent .getAttrWaveform idle = [.response 0 (some 1)] := by decide
/-- V70. -/
theorem test_getAttrDutyCycle : sent .getAttrDutyCycle idle = [.response 0 (some 4)] := by decide
/-- V70. -/
theorem test_getAttrPeriod : sent .getAttrPeriod idle = [.response 0 (some 0x100000)] := by decide
/-- R453. -/
theorem test_getAttrPhase : sent .getAttrPhase { std with phase := 4 } = [.response 0 (some 4)] := by decide
/-- V71. -/
theorem test_getAttrPhaseCount : sent .getAttrPhaseCount custom = [.response 0 (some 4)] := by decide
/-- V71. -/
theorem test_getAttrPhaseCount_sample : sent .getAttrPhaseCount (playing .none) = [.response 0 (some 1)] := by decide
/-- R455. -/
theorem test_getAttrVolume : sent .getAttrVolume std = [.response 0 (some 32767)] := by decide
/-- V45. -/
theorem test_getAttrStatus_attached : sent .getAttrStatus std = [.response 0 (some 1)] := by decide
/-- P4. -/
theorem test_getAttrStatus_pending : sent .getAttrStatus waiting = [.response 0 (some 5)] := by decide
/-- R457. -/
theorem test_getAttrNumChannels : sent .getAttrNumChannels std = [.response 0 (some 1)] := by decide
/-- V70. -/
theorem test_getAttrVolumeN : sent (.getAttrVolumeN 7) idle = [.response 0 (some 0)] := by decide
/-- D34. -/
theorem test_getAttrVolumeN_unlisted : sent (.getAttrVolumeN 2) smallPlaying = [.response 0xFFFFFFFE (some 0)] := by decide
/-- R459. -/
theorem test_getAttrSampleOffset : sent .getAttrSampleOffset (playing .none) = [.response 0 (some 0)] := by decide
/-- R460. -/
theorem test_getAttrSampleEnd : sent .getAttrSampleEnd (playing .none) = [.response 0 (some 3)] := by decide
/-- V70. -/
theorem test_getAttrSamplePeriod : sent .getAttrSamplePeriod idle = [.response 0 (some 0x100000)] := by decide
/-- R462. -/
theorem test_getAttrSampleRepeat : sent .getAttrSampleRepeat idle = [.response 0 (some 0)] := by decide
/-- R463. -/
theorem test_getAttrSampleCallback : sent .getAttrSampleCallback asking = [.response 0 (some 1)] := by decide
/-- P4. -/
theorem test_getAttrSamplePosition : sent .getAttrSamplePosition waiting = [.response 0 (some 3)] := by decide
/-- V81. -/
theorem test_setPtrWaveform_short : sent (.setPtrWaveform 7) idle = [.response 0xFFFFFFFA none] := by decide
/-- V81. -/
theorem test_setPtrWaveform_dead : sent (.setPtrWaveform 9) idle = [.response 0xFFFFFFFD none] := by decide
/-- R501. -/
theorem test_setPtrSample_starts : (playing .none).sampleEnd = 3 := by decide
/-- V82. -/
theorem test_setPtrSample_one_frame : sent (.setPtrSample 7) idle = [done] := by decide
/-- V80. -/
theorem test_getPtrWaveform : sent .getPtrWaveform custom = [.response 0 (some 5)] := by decide
/-- R503. -/
theorem test_getPtrSample : sent .getPtrSample idle = [.response 0 (some 0)] := by decide
/-- V1. -/
theorem test_run_square : sent (.run (20 * 2 ^ 20)) std = [pulse 0 32766, pulse 4 (-65533), pulse 16 65533, done] := by decide
/-- D19: AddPulse in sample mode where SAMPLE_SINK is Pulse; the times are those of FRAC = 5. -/
theorem test_run_sample_pulse : sent (.run 96) smallPlaying =
      [.sink ⟨.addPulse, 0, 0, 50⟩, .sink ⟨.addPulse, 0, 32, 50⟩, .sink ⟨.addPulse, 0, 64, 50⟩, done] := by decide
/-- P2. -/
theorem test_run_palindrome : sent (.run (8 * 2 ^ 20)) (playing .palindrome) =
      [frame 0 50, frame 1 50, frame 2 50, frame 4 (-50), frame 5 (-50), frame 7 50, done] := by decide
/-- V2. -/
theorem test_run_triangle : (after (exec (.run (8 * 2 ^ 20)) { std with waveform := .triangle })).lastAt 0 = -2184 := by decide
/-- V3. -/
theorem test_run_sawtooth : (after (exec (.run (8 * 2 ^ 20)) { std with waveform := .sawtooth })).phase = 1 := by decide
/-- V4. -/
theorem test_run_sine : (after (exec (.run (9 * 2 ^ 20)) { std with waveform := .sine })).lastAt 0 = 32766 := by decide
/-- V5. -/
theorem test_run_noise : (after (exec (.run (20 * 2 ^ 20)) { std with waveform := .noise })).lfsr = 0x0600 := by decide
/-- V6. -/
theorem test_run_custom : sent (.run (3 * 2 ^ 20)) custom = [pulse 0 (-1000), pulse 1 1000, pulse 2 999, done] := by decide
/-- V23. -/
theorem test_endChunk_runs_first : sent (.endChunk (20 * 2 ^ 20)) (after (exec (.run (10 * 2 ^ 20)) std)) = [pulse 16 65533, done] := by decide
/-- V20. -/
theorem test_endChunk_keeps_fraction : (after (exec (.endChunk (4 * 2 ^ 20)) { std with period := 0x180000 })).time = 0x80000 := by decide
/-- V88. -/
theorem test_run_shape_changed : faults (exec (.run (2 ^ 20)) { custom with data := [] }) = true := by decide
/-- R125: another object behind the handle is not seen before DATA_NOTIFY, and is after it. -/
theorem test_identity_seen_after_notify :
    amplitude (swapped (playing .none)) 0 = .ok 100 ∧
      amplitude (after (exec (.dataNotifyReplaced 1) (swapped (playing .none)))) 0 = .ok 7 := by decide
/-- R605: the object held is no longer live, whatever stands behind its handle now. -/
theorem test_run_reprovided : faults (exec (.run (2 ^ 20)) (reprovided (playing .none))) = true := by decide
/-- R322, R605: the reply is answered before the resumed command stops the machine. -/
theorem test_boundaryReply_fault_keeps_answer :
    exec (.boundaryReply 1) (reprovided waiting) = .fault (.dataShapeChanged (waiting.out ++ [done])) := rfl
/-- V48. -/
theorem test_reset_clears : (after (exec .reset (after (exec (.run (20 * 2 ^ 20)) std)))).last = List.replicate 8 0 := by decide
/-- V46. -/
theorem test_attach_twice : sent (.attach 0) std = [.response 0xFFFFFFFC none] := by decide
/-- V47. -/
theorem test_attach_range : sent (.attach 9) idle = [.response 0xFFFFFFFB none] := by decide
/-- V49. -/
theorem test_detach_reset : sent .detach idle = [.response 0xFFFFFFFC none] := by decide
/-- R354. -/
theorem test_detach_unlinks : (after (exec .detach std)).nch = 0 := by decide
/-- V86. -/
theorem test_dataNotifyReplaced_grows : (after (exec (.dataNotifyReplaced 1)
      ({ playing .none with pos := 0x200000 }.provideObject 1 (objectOf 1 [[1], [2], [3], [4], [5]])))).sampleEnd = 5 := by decide
/-- V87. -/
theorem test_dataNotifyReplaced_drops : (after (exec (.dataNotifyReplaced 5) (custom.provideObject 5 (objectOf 1 [[1]])))).waveform = .square := by decide
/-- V84. -/
theorem test_dataNotifyDisposed_drops : (after (exec (.dataNotifyDisposed 1) (playing .none))).samplePtr = 0 := by decide
/-- V85. -/
theorem test_dataNotifyDisposed_zero : sent (.dataNotifyDisposed 0) idle = [.response 0xFFFFFFFD none] := by decide
/-- P4. -/
theorem test_boundaryReply_resumes : sent (.boundaryReply 2) waiting = [done, .boundaryRequest .atStart (-1)] := by decide
/-- P4. -/
theorem test_boundaryReply_bad_policy : sent (.boundaryReply 5) waiting = [.response 0xFFFFFFF8 none] := by decide
/-- V90. -/
theorem test_reservedOp0 : sent (.reservedOp0 0 0) idle = [.response 0xFFFFFFFC none] := by decide
/-- V90. -/
theorem test_reservedOpcToOpf : sent (.reservedOpcToOpf 12 0 0) idle = [.response 0xFFFFFFFC none] := by decide
/-- 20_memory.md R103: the low byte first, a byte 0 left unlisted. -/
theorem test_objectOf_bytes : (objectOf 2 [[258, -1], [0, 256]]).bytes = [(0, 2), (1, 1), (2, 255), (3, 255), (7, 1)] := by
  decide
/-- V90: an illegal header is answered, its words taken. -/
theorem test_step_illegal :
    (after (step { idle with cmd := [0x20700001, 0x70000000] })).out = [.response 0xFFFFFFFC (some 0)] := by decide
/-- The fetched word is the next command performed. -/
theorem test_withFetchWord : (after (step (idle.withFetchWord 64 0x0000000280000000))).nch = 2 := by decide

/-! ### States and operands that meet the hypotheses of each statement -/

/-- An advance that asks the host nothing. -/
def isDone : Advanced → Bool
  | .done _ => true
  | .request _ _ => false

theorem noRequestBefore_of_done (s : State) (k : Nat) (h : ∀ j < k, isDone (advance (stepState j s)) = true := by decide) :
    s.NoRequestBefore k := by
  intro j hj t e ht
  have := h j hj
  rw [ht] at this
  cases this

theorem witness_DecodeInvertsEncode :
    Instr.wellFormed (.setAttrVolumeN 7 (-2 ^ 31)) = true ∧ Instr.wellFormed (.run (2 ^ 64 - 1)) = true ∧
      Instr.wellFormed (.reservedOpcToOpf 15 255 (2 ^ 20 - 1)) = true := by decide

theorem witness_EncodeInvertsDecode :
    decode [0xA0200000, 0xFFFFFFFF, 7] = .command (.dataNotifyDisposed 4294967295) [7] := by decide

theorem witness_StepRunsDecodedCommand :
    decode ({ idle with cmd := [0x80000000, 2, 9] } : State).cmd = .command (.attach 2) [9] ∧
      Instr.wellFormed (.attach 2) = true ∧ ({ idle with cmd := [0x80000000, 2, 9] } : State).cmd = encode (.attach 2) ++ [9] := by
  decide

theorem witness_StepWaitsForAWholeCommand :
    idle.cmd = [] ∧ ({ idle with cmd := [0x50000000, 1] } : State).cmd = 0x50000000 :: [1] ∧
      [(1 : Word)].length + 1 < wordsOfOp ((0x50000000 : Word).toNat / 2 ^ 28) := by decide

/-- One header for each clause: reserved operations at both ends, RSV, KEY on a keyless command, an unlisted key, a read-only
key. -/
theorem witness_IllegalEncodingsAnswer :
    (0x0FFFFFFF : Word).toNat / 2 ^ 28 = 0 ∧ (0xC0000000 : Word).toNat / 2 ^ 28 = 12 ∧
    ((0x10100001 : Word).toNat / 2 ^ 28 = 1 ∧ (0x10100001 : Word).toNat % 2 ^ 20 = 1 ∧ 1 + 1 = wordsOfOp 1) ∧
    ((0xB0100000 : Word).toNat / 2 ^ 28 = 11 ∧ (0xB0100000 : Word).toNat / 2 ^ 20 % 256 = 1) ∧
    (idle.pending = false ∧ (0x22600000 : Word).toNat / 2 ^ 20 % 256 = 0x26 ∧ (0x22600000 : Word).toNat % 2 ^ 20 = 0) ∧
    ((0xA0300000 : Word).toNat / 2 ^ 28 = 10 ∧ (0xA0300000 : Word).toNat / 2 ^ 20 % 256 = 3) ∧
    ((0x12500000 : Word).toNat / 2 ^ 28 = 1 ∧ (0x12500000 : Word).toNat / 2 ^ 20 % 256 = 0x25) := by decide

/-- Well-formed parameters other than the defaults, and ill-formed ones. -/
theorem witness_ResetMeetsInvariant :
    (four.SineTableByFormula ∧ four.WellFormed) ∧
      ({ four with nTriangle := 31 } : Config.Params).SineTableByFormula ∧
      ¬ ({ four with nTriangle := 31 } : Config.Params).DeltasFit :=
  ⟨⟨four_sine _ rfl rfl rfl, by decide⟩, four_sine _ rfl rfl rfl, by decide⟩

theorem witness_GetAnswersSampleKeys : (playing .palindrome).Inv := playing_inv

theorem witness_GetAnswersWaveformKeys :
    7 < idle.cfg.maxChannels ∧ 1 < smallPlaying.cfg.maxChannels ∧ smallPlaying.cfg.maxChannels ≤ 2 := by decide

theorem witness_StepKeepsInvariant :
    (std.withFetchWord 32 0x70000000).Inv ∧
      step (std.withFetchWord 32 0x70000000) = .next (after (step (std.withFetchWord 32 0x70000000))) :=
  ⟨std_inv, rfl⟩

theorem witness_StepCompletesUnderHostDuty : (playing .palindrome).Inv ∧ (playing .palindrome).HostDuty :=
  ⟨playing_inv, by decide⟩

/-- Custom and sample steps whose object is gone; and a legal state for the second clause. -/
theorem witness_ShapeChangeStopsTheReadingStep :
    (({ custom with data := [] } : State).Inv ∧ ({ custom with data := [] } : State).waveform = .custom ∧
      dataShape { custom with data := [] } 5 ≠ some ⟨4, 1⟩) ∧
    (({ playing .palindrome with data := [] } : State).Inv ∧ (playing .palindrome).halted = false ∧
      dataShape { playing .palindrome with data := [] } 1 ≠ some ⟨3, 1⟩) ∧
    (custom.attached = true ∧ custom.pending = false ∧ custom.time < 1) ∧
    ((reprovided waiting).Inv ∧ (reprovided waiting).sampleIdentity = .disposed ∧
      (reprovided waiting).susp = some ⟨.run, 8 * 2 ^ 20, [⟨0, [100]⟩, ⟨0x100000, [200]⟩], ⟨0x200000, [300], .atEnd⟩⟩ ∧
      (reprovided waiting).time + (reprovided waiting).period < 8 * 2 ^ 20) :=
  ⟨⟨legal _, by decide, by decide⟩,
    ⟨legal _, by decide, by decide⟩, by decide, legal _, by decide, by decide, by decide⟩

/-- A WAVEFORM write, a quantity write at the end of int32, a write that SAMPLE_OFFSET clamps: each succeeds. -/
theorem witness_SetThenGetRoundTrip :
    (playing .palindrome).Inv ∧ (-2 ^ 31 : Int) ≤ -2147483648 ∧ (2147483647 : Int) < 2 ^ 31 ∧
      sent (.setAttrWaveform 5) (playing .palindrome) = [.response 0 none] ∧
      sent (.setAttrPeriod (-2147483648)) (playing .palindrome) = [.response 0 none] ∧
      sent (.setAttrSampleOffset 2147483647) (playing .palindrome) = [.response 0 none] ∧
      sent (.setAttrSampleRepeat 2) (playing .palindrome) = [.response 0 none] ∧
      exec (.run 0) std = .next (after (exec (.run 0) std)) :=
  ⟨playing_inv, by decide, by decide, by decide, by decide, by decide, by decide, rfl⟩

theorem witness_SetWaveformSelects :
    idle.pending = false ∧ (1 : Int) = Waveform.code .square ∧ (5 : Int) = Waveform.code .sine ∧ ((0 : Int) < 1 ∧ (5 : Int) < 6) := by
  decide

theorem witness_SetDutyAndPeriodClamp : idle.pending = false := by decide

theorem witness_SetPhaseClamps :
    idle.pending = false ∧ idle.waveform ≠ .sample ∧ (playing .none).pending = false ∧ (playing .none).waveform = .sample := by
  decide

theorem witness_SetVolumesClamp :
    (idle.pending = false ∧ idle.volume.length = idle.cfg.maxChannels ∧ 0 < idle.cfg.maxChannels ∧ 7 < idle.cfg.maxChannels) ∧
      smallPlaying.pending = false ∧ smallPlaying.volume.length = smallPlaying.cfg.maxChannels ∧
      1 < smallPlaying.cfg.maxChannels ∧ smallPlaying.cfg.maxChannels ≤ 2 := by decide

theorem witness_SetSampleRangeRestarts :
    idle.pending = false ∧ idle.samplePtr = 0 ∧ (playing .none).pending = false ∧ (playing .none).samplePtr ≠ 0 ∧
      (playing .none).HostDuty := by decide

theorem witness_SetPlaybackAttributes :
    idle.pending = false ∧ (2 : Int) = Policy.code .palindrome ∧ ((-1 : Int) < 0 ∧ (2 : Int) < 3) := by decide

theorem witness_RewriteLeavesEveryField :
    std.Inv ∧ std.pending = false ∧ std.waveform ≠ .custom ∧ std.waveform ≠ .sample ∧ ∀ c < 8, std.volumeAt c = 32767 :=
  ⟨std_inv, by decide, by decide, by decide, by decide⟩

/-- Handle 0, a dead handle, tables of 1, 65, 2 and 64 frames. -/
theorem witness_SetPtrWaveformSelects :
    idle.pending = false ∧ dataShape idle 9 = none ∧ dataShape idle 7 = some ⟨1, 1⟩ ∧
      (dataShape { idle with data := [⟨3, ⟨65, 1, []⟩⟩] } 3 = some ⟨65, 1⟩ ∧ 64 < 65) ∧
      dataShape { idle with data := [⟨3, ⟨2, 1, []⟩⟩] } 3 = some ⟨2, 1⟩ ∧
      dataShape { idle with data := [⟨3, ⟨64, 1, []⟩⟩] } 3 = some ⟨64, 1⟩ := by decide

/-- Handle 0, a dead handle, objects of 0, 2^30 + 1, 1 and 2^30 frames. -/
theorem witness_SetPtrSampleSelects :
    idle.pending = false ∧ dataShape idle 9 = none ∧ dataShape idle 7 = some ⟨1, 1⟩ ∧
      dataShape { idle with data := [⟨3, ⟨0, 1, []⟩⟩] } 3 = some ⟨0, 1⟩ ∧
      dataShape { idle with data := [⟨3, ⟨2 ^ 30 + 1, 1, []⟩⟩] } 3 = some ⟨2 ^ 30 + 1, 1⟩ ∧
      dataShape { idle with data := [⟨3, ⟨2 ^ 30, 1, []⟩⟩] } 3 = some ⟨2 ^ 30, 1⟩ := by decide

/-- One object held as table and as sample, in range for both, for the sample alone, and for neither. -/
theorem witness_NotifyReplacedRevalidates :
    custom.pending = false ∧ custom.wavePtr = 5 ∧ custom.samplePtr ≠ 5 ∧ dataShape custom 5 = some ⟨4, 1⟩ ∧
      (playing .none).samplePtr = 1 ∧ (playing .none).wavePtr ≠ 1 ∧ dataShape (playing .none) 1 = some ⟨3, 1⟩ ∧
      dataShape (custom.provideObject 5 ⟨1, 1, []⟩) 5 = some ⟨1, 1⟩ ∧
      (∀ sh, dataShape ((playing .none).disposeObject 1) 1 = some sh → sh.frames < 1 ∨ 2 ^ 30 < sh.frames) := by
  refine ⟨by decide, by decide, by decide, by decide, by decide, by decide, by decide, by decide, ?_⟩
  have : dataShape ((playing .none).disposeObject 1) 1 = none := by decide
  simp [this]

theorem witness_NotifyDisposedReleases :
    custom.pending = false ∧ (custom.wavePtr = 5 ∧ custom.samplePtr ≠ 5) ∧
      ((playing .none).wavePtr ≠ 1 ∧ (playing .none).samplePtr = 1) ∧ (idle.wavePtr ≠ 3 ∧ idle.samplePtr ≠ 3) ∧
      (after (exec (.setPtrWaveform 1) (playing .none))).wavePtr = 1 ∧
      (after (exec (.setPtrWaveform 1) (playing .none))).samplePtr = 1 := by decide

theorem witness_RestartPlacesPlayback :
    idle.samplePtr = 0 ∧ (halted.samplePtr ≠ 0 ∧ halted.sampleEnd ≤ halted.sampleOffset) ∧
      ((playing .none).samplePtr ≠ 0 ∧ (playing .none).sampleOffset < (playing .none).sampleEnd ∧ 0 ≤ (playing .none).samplePeriod) ∧
      ({ playing .none with samplePeriod := -1 } : State).samplePeriod < 0 := by decide

theorem witness_ResetClearsTime : std.pending = false := by decide

theorem witness_AttachAndDetach :
    std.pending = false ∧ std.attached = true ∧ idle.pending = false ∧ idle.attached = false ∧
      ((0 : Int) < 1 ∧ (8 : Int) < 9) ∧ (1 : Int) ≤ 1 ∧ (8 : Int) ≤ 8 := by decide

/-- Each waveform, at the last phase of its table. -/
theorem witness_BuiltInAmplitudes :
    ({ std with phase := 15 } : State).waveform = .square ∧
      (({ std with waveform := .triangle, phase := 31 } : State).phase < 32) ∧
      (({ std with waveform := .sawtooth, phase := 6 } : State).phase < 7) ∧
      (({ std with waveform := .sine, phase := 31 } : State).phase < 32) ∧
      ({ std with waveform := .noise } : State).waveform = .noise := by decide

/-- SINE by the formula, at the last phase. -/
theorem witness_BuiltInAmplitudes_sine :
    ({ State.powerOn four with waveform := .sine, phase := 3 } : State).cfg.SineTableByFormula ∧ 3 < four.nSine :=
  ⟨four_sine _ rfl rfl rfl, by decide⟩

/-- The second part: another object behind the handle. -/
theorem witness_DataAmplitudes_replaced :
    (swapped (playing .none)).HostDuty ∧ (swapped (playing .none)).sampleIdentity = .replaced (objectOf 1 [[100], [200], [300]]) ∧
      ({ custom with waveIdentity := .replaced (objectOf 1 [[1], [2], [3], [4]]) } : State).HostDuty ∧
      custom.phase < (objectOf 1 [[1], [2], [3], [4]]).frames := ⟨by decide, rfl, by decide, by decide⟩

theorem witness_DataAmplitudes :
    (custom.waveform = .custom ∧ custom.wavePtr ≠ 0 ∧ custom.HostDuty ∧ dataFrame custom 5 custom.phase 0 = some (-1000)) ∧
      (halted.waveform = .sample ∧ halted.halted = true) ∧
      ((playing .none).halted = false ∧ (playing .none).HostDuty ∧ ((0 : Nat) : Int) * 2 ^ 20 ≤ (playing .none).pos ∧
        (playing .none).pos < (((0 : Nat) : Int) + 1) * 2 ^ 20 ∧ dataShape (playing .none) 1 = some ⟨3, 1⟩ ∧
        dataFrame (playing .none) 1 0 (7 % 1) = some 100) := by decide

theorem witness_AmplitudeIsFrameValue :
    (custom.cfg.WellFormed ∧ custom.DataInv ∧ custom.phase < phaseCount custom ∧ amplitude custom 0 = .ok (-1000)) ∧
      custom.Inv ∧ custom.HostDuty ∧ custom.pending = false :=
  ⟨⟨custom_inv.1.1, custom_inv.2.2.2.2.2.2.2, by decide, rfl⟩, custom_inv, by decide, by decide⟩

theorem witness_LfsrFullPeriod : 0 < 1 ∧ 1 < 2 ^ 15 ∧ 0 < 0x7FFF ∧ 0x7FFF < 2 ^ 15 ∧ 32766 < 32767 := by decide

theorem witness_LevelFloors : (-32768 : Int) ≤ -32768 ∧ (32767 : Int) ≤ 32767 ∧ 32767 ≤ 32767 := by decide

theorem witness_GeneratorRefusals :
    (idle.pending = false ∧ idle.attached = false) ∧ (std.pending = false ∧ std.attached = true ∧ 2 ^ 32 < 2 ^ 32 + 1) ∧
      (waiting.pending = true ∧ waiting.susp.isSome = true ∧ (-1 : Int) < 0 ∧ (2 : Int) < 3) := by decide

/-- `std` at 1.5 samples a step (R254's example): three steps are due before 4 samples. -/
def slow : State := { std with period := 0x180000 }

theorem slow_inv : slow.Inv :=
  legal _

/-- How many steps are due, as the statements count them. -/
theorem due_eq (s : State) (e k : Nat) (hp : 0 < s.period := by decide)
    (h : if k = 0 then e ≤ s.time else s.time + (k - 1) * s.period < e ∧ e ≤ s.time + k * s.period := by decide) :
    k = Nat.ceil (((e : ℚ) - s.time) / s.period) := by
  have hq : (0 : ℚ) < s.period := by exact_mod_cast hp
  symm
  cases k with
  | zero =>
    have h' : (e : ℚ) ≤ s.time := by exact_mod_cast (show e ≤ s.time by simpa using h)
    exact Nat.ceil_eq_zero.2 (div_nonpos_of_nonpos_of_nonneg (by linarith) hq.le)
  | succ j =>
    have h1 : (s.time : ℚ) + j * s.period < e ∧ (e : ℚ) ≤ s.time + (j + 1) * s.period := by
      rw [if_neg (by omega), Nat.add_sub_cancel] at h
      exact_mod_cast h
    rw [Nat.ceil_eq_iff (by omega), lt_div_iff₀ hq, div_le_iff₀ hq]
    push_cast
    constructor <;> linarith

theorem witness_RunTakesTheStepsDue :
    slow.Inv ∧ slow.HostDuty ∧ slow.attached = true ∧ slow.pending = false ∧ slow.NoRequestBefore 3 ∧
      3 = Nat.ceil ((((4 * 2 ^ 20 : Nat) : ℚ) - slow.time) / slow.period) :=
  ⟨slow_inv, by decide, by decide, by decide, noRequestBefore_of_done _ _, due_eq _ _ _⟩

/-- The sample plays three steps before the request: a run of two of them with the callback on. -/
theorem witness_RunEmitsLevelChanges :
    asking.Inv ∧ asking.HostDuty ∧ asking.attached = true ∧ asking.pending = false ∧ asking.waveform = .sample ∧
      asking.NoRequestBefore 2 ∧ 2 = Nat.ceil ((((2 * 2 ^ 20 : Nat) : ℚ) - asking.time) / asking.period) :=
  ⟨asking_inv, by decide, by decide, by decide, by decide, noRequestBefore_of_done _ _, due_eq _ _ _⟩

theorem witness_RunWithNothingDue :
    std.attached = true ∧ std.pending = false ∧ 0 ≤ 2 ^ 32 ∧ 0 ≤ std.time ∧ 2 ^ 32 ≤ ({ std with time := 2 ^ 32 } : State).time := by
  decide

/-- "RUN 20s" (R163) waits on the port. -/
def due : State := { std with cmd := [0x50000000, 0x01400000, 0] }

theorem witness_EmittedTransactionsAreLegal :
    due.Inv ∧ step due = .next (after (step due)) ∧ (sinkTxs (after (step due)).out).length = 3 := by
  have h : step due = exec (.run (20 * 2 ^ 20)) std := rfl
  rw [h]
  exact ⟨std_inv, rfl, by decide⟩

theorem witness_DeltasSumToLevelChange :
    std.Inv ∧ exec (.run (20 * 2 ^ 20)) std = .next (after (exec (.run (20 * 2 ^ 20)) std)) ∧
      exec .reset std = .next (after (exec .reset std)) ∧ 7 < 8 := ⟨std_inv, rfl, rfl, by decide⟩

/-- An oscillator with a level, silenced, before its next step. -/
def silenced : State := { idle with attached := true, nch := 1, last := [32766, 0, 0, 0, 0, 0, 0, 0] }

theorem witness_SilencedRunReturnsToZero :
    silenced.Inv ∧ silenced.HostDuty ∧ silenced.attached = true ∧ silenced.pending = false ∧ silenced.time < 1 ∧
      silenced.NoRequestBefore 1 ∧ 1 = Nat.ceil ((((1 : Nat) : ℚ) - silenced.time) / silenced.period) ∧
      (∀ c < silenced.nch, silenced.volumeAt c = 0) :=
  ⟨legal _, by decide, by decide, by decide, by decide, noRequestBefore_of_done _ _,
    due_eq _ _ _, by decide⟩

theorem witness_HaltedPlaybackIsSilent :
    halted.Inv ∧ halted.attached = true ∧ halted.pending = false ∧ halted.waveform = .sample ∧ halted.halted = true ∧
      halted.time < 1 := ⟨halted_inv, by decide⟩

/-- The callback is on and the sample unhalted: two steps that cross nothing, then none due; and the largest END. -/
theorem witness_EndShiftsTheTime :
    (asking.Inv ∧ asking.HostDuty ∧ asking.attached = true ∧ asking.pending = false ∧ asking.NoRequestBefore 2 ∧
      2 = Nat.ceil ((((0x180001 : Nat) : ℚ) - asking.time) / asking.period) ∧ asking.time < 0x180001 + asking.period) ∧
    (asking.NoRequestBefore 0 ∧ 0 = Nat.ceil ((((0 : Nat) : ℚ) - asking.time) / asking.period) ∧ 0 ≤ asking.time) ∧
    (({ std with period := 0x7FFFFFFF } : State).NoRequestBefore 3 ∧ 2 ^ 32 ≤ std.cfg.maxEndTime ∧
      3 = Nat.ceil ((((2 ^ 32 : Nat) : ℚ) - ({ std with period := 0x7FFFFFFF } : State).time) /
        ({ std with period := 0x7FFFFFFF } : State).period)) :=
  ⟨⟨asking_inv, by decide, by decide, by decide, noRequestBefore_of_done _ _, due_eq _ _ _, by decide⟩,
    ⟨noRequestBefore_of_done _ _, due_eq _ _ _, by decide⟩,
    noRequestBefore_of_done _ _, by decide, due_eq _ _ _⟩

/-- A split at a fraction of a sample, of playback with the callback on. -/
theorem witness_ChunksDoNotMovePulses :
    asking.Inv ∧ asking.HostDuty ∧ asking.attached = true ∧ asking.pending = false ∧ 0x180001 ≤ 0x200000 ∧
      0x200000 ≤ asking.cfg.maxEndTime ∧ 0x100000 = 0x180001 / 2 ^ asking.cfg.frac * 2 ^ asking.cfg.frac ∧
      2 = Nat.ceil ((((0x200000 : Nat) : ℚ) - asking.time) / asking.period) ∧ asking.NoRequestBefore 2 :=
  ⟨asking_inv, by decide, by decide, by decide, by decide, by decide, by decide, due_eq _ _ _,
    noRequestBefore_of_done _ _⟩

theorem witness_PoliciesPlaceThePosition :
    (playing .none).sampleOffset < (playing .none).sampleEnd ∧ (0 : Int) = (playing .none).sampleOffset * 2 ^ 20 ∧
      (3145728 : Int) = (playing .none).sampleEnd * 2 ^ 20 := by decide

/-- At the last position inside, and the first outside on either side, with and without the callback. -/
theorem witness_SampleAdvanceMovesThePosition :
    halted.halted = true ∧ (playing .none).halted = false ∧ (playing .none).waveform = .sample ∧
      (0x2FFFFF : Int) < (playing .none).sampleEnd * 2 ^ 20 ∧ (playing .none).sampleEnd * 2 ^ 20 ≤ (0x300000 : Int) ∧
      (-1 : Int) < (playing .none).sampleOffset * 2 ^ 20 ∧ (playing .none).sampleCallback = false ∧
      asking.sampleCallback = true ∧ asking.halted = false := by decide

/-- P4's RUN: the third step's advance crosses the end. -/
theorem witness_BoundaryRequestSuspends :
    asking.Inv ∧ asking.HostDuty ∧ asking.attached = true ∧ asking.pending = false ∧ asking.waveform = .sample ∧
      asking.halted = false ∧ asking.sampleCallback = true ∧ asking.dir = .forward ∧
      (∀ j : Nat, j < 3 → asking.sampleOffset * 2 ^ 20 ≤ asking.pos + (j : Int) * asking.samplePeriod ∧
        asking.pos + (j : Int) * asking.samplePeriod < asking.sampleEnd * 2 ^ 20) ∧
      asking.sampleEnd * 2 ^ 20 ≤ asking.pos + ((2 + 1 : Nat) : Int) * asking.samplePeriod ∧
      asking.time + 2 * asking.period < 8 * 2 ^ 20 ∧ 8 * 2 ^ 20 ≤ 2 ^ 32 := by
  refine ⟨asking_inv, by decide, by decide, by decide, by decide, by decide, by decide, by decide, ?_, by decide,
    by decide, by decide⟩
  intro j hj
  interval_cases j <;> decide

/-- A wait with the host's policy applied and the step's period added (R320 item 4). -/
def resumed (p : Policy) (s : State) : State :=
  { applyPolicy p { s with pending := false, susp := none } with time := s.time + s.period }

/-- P4's wait at a target of 4 samples, where one step is left. -/
def waitingShort : State := after (exec (.run (4 * 2 ^ 20)) asking)

/-- The wait that completes after one step; P4's own, which waits again after two of five steps; and any with NONE. -/
theorem witness_ReplyResumes :
    (waitingShort.Inv ∧ waitingShort.HostDuty ∧
      waitingShort.susp = some ⟨.run, 4 * 2 ^ 20, [⟨0, [100]⟩, ⟨0x100000, [200]⟩], ⟨0x200000, [300], .atEnd⟩⟩ ∧
      1 = Nat.ceil ((((4 * 2 ^ 20 : Nat) : ℚ) - (resumed .palindrome waitingShort).time) /
        (resumed .palindrome waitingShort).period) ∧ (resumed .palindrome waitingShort).NoRequestBefore 1) ∧
    (waiting.Inv ∧ waiting.HostDuty ∧
      waiting.susp = some ⟨.run, 8 * 2 ^ 20, [⟨0, [100]⟩, ⟨0x100000, [200]⟩], ⟨0x200000, [300], .atEnd⟩⟩ ∧
      5 = Nat.ceil ((((8 * 2 ^ 20 : Nat) : ℚ) - (resumed .palindrome waiting).time) / (resumed .palindrome waiting).period) ∧
      2 < 5 ∧ (resumed .palindrome waiting).NoRequestBefore 2 ∧
      advance (stepState 2 (resumed .palindrome waiting)) =
        .request (movePos (stepState 2 (resumed .palindrome waiting))) .atStart) ∧
    5 = Nat.ceil ((((8 * 2 ^ 20 : Nat) : ℚ) - (resumed .none waiting).time) / (resumed .none waiting).period) :=
  ⟨⟨legal _, by decide, by decide, due_eq _ _ _, noRequestBefore_of_done _ _⟩,
    ⟨waiting_inv, by decide, by decide, due_eq _ _ _, by decide, noRequestBefore_of_done _ _, rfl⟩,
    due_eq _ _ _⟩

/-- P4's sample, as an END: two requests, each answered PALINDROME. -/
def waitingEnd : State := after (exec (.endChunk (8 * 2 ^ 20)) asking)

theorem witness_HostAnswerActsAsPolicy :
    asking.Inv ∧ asking.HostDuty ∧ asking.pending = false ∧ exec (.endChunk (8 * 2 ^ 20)) asking = .next waitingEnd ∧
      (∀ m < 2, ∀ r, answered .palindrome m waitingEnd = .next r → r.pending = true) ∧
      answered .palindrome 2 waitingEnd = .next (after (answered .palindrome 2 waitingEnd)) ∧
      (after (answered .palindrome 2 waitingEnd)).pending = false := by
  refine ⟨asking_inv, by decide, by decide, rfl, fun m hm r hr => ?_, rfl, by decide⟩
  have h : ∀ m < 2, (after (answered .palindrome m waitingEnd)).pending = true := by decide
  have := h m hm
  rwa [hr] at this

theorem witness_PendingRefusesOtherCommands :
    waiting.pending = true ∧ performedWhilePending (.run 0) = false ∧
      decode ({ waiting with cmd := [0xA0300000, 1] } : State).cmd = .illegal (.unlistedKey 10) [] ∧
      decode ({ waiting with cmd := [0x12500000, 1] } : State).cmd = .illegal .readOnlyKey [] ∧
      decode ({ waiting with cmd := [0x40300000] } : State).cmd = .illegal (.unlistedKey 4) [] := by decide

theorem witness_FailedCommandChangesNothing :
    step (std.withFetchWord 32 0x20700001) = .next (after (step (std.withFetchWord 32 0x20700001))) ∧
      (after (step (std.withFetchWord 32 0x20700001))).out =
        (std.withFetchWord 32 0x20700001).out ++ [.response 0xFFFFFFFC (some 0)] ∧ (0xFFFFFFFC : Word) ≠ 0 :=
  ⟨rfl, by decide, by decide⟩

/-- A failure that leaves the next command on the port. -/
theorem test_failure_takes_its_words_alone :
    (after (step { std with cmd := [0x80000000, 1, 0x70000000] })).cmd = [0x70000000] := by decide

theorem witness_OnlyListedStatusCodes :
    exec .detach std = .next (after (exec .detach std)) ∧
      decode ({ idle with cmd := [0x20700001] } : State).cmd = .illegal (.reservedBits 2) [] ∧
      step idle = .next (after (step idle)) := ⟨rfl, by decide, rfl⟩

theorem witness_CommandsWriteOnlyTheirFields :
    exec .detach std = .next (after (exec .detach std)) ∧ StateField.period ∉ writes .detach := ⟨rfl, by decide⟩

theorem witness_LifecycleMoves :
    std.Inv ∧ exec .detach std = .next (after (exec .detach std)) ∧ (after (exec .detach std)).attached ≠ std.attached ∧
      asking.Inv ∧ asking.pending = false ∧ exec (.run (8 * 2 ^ 20)) asking = .next waiting ∧ waiting.pending = true ∧
      waiting.Inv ∧ exec (.boundaryReply 0) waiting = .next (after (exec (.boundaryReply 0) waiting)) ∧
      (after (exec (.boundaryReply 0) waiting)).pending = false :=
  ⟨std_inv, rfl, by decide, asking_inv, by decide, rfl, by decide, waiting_inv, rfl, by decide⟩

theorem witness_StepNeverWritesDataMemory :
    step (idle.withFetchWord 32 0x70000000) = .next (after (step (idle.withFetchWord 32 0x70000000))) := rfl

theorem witness_HostFrameChangeIsSeen :
    dataShape (playing .none) 1 = some (objectOf 1 [[7], [8], [9]]).shape ∧
      dataWf idle.data ∧ findObject idle.data 1 = some (objectOf 1 [[100], [200], [300]]) ∧
      2 < (objectOf 1 [[100], [200], [300]]).frames ∧ 0 < (objectOf 1 [[100], [200], [300]]).channels ∧
      (-32768 : Int) ≤ -32768 ∧ (32767 : Int) ≤ 32767 ∧ ((1, 0) : Nat × Nat) ≠ (2, 0) ∧ 5 ≠ 1 := by decide

theorem witness_SinkDependsOnTheMultiset :
    (channelOnly 0 [⟨.addFrame, 0, 0, 1⟩, ⟨.addPulse, 1, 5, 2⟩, ⟨.addPulse, 0, 7, 3⟩]).Perm
      (channelOnly 0 [⟨.addPulse, 0, 7, 3⟩, ⟨.addFrame, 0, 0, 1⟩]) := by decide

end Sys2Proof.Tests
end

section
/-! SUPPORT. The flags at their places in the STATUS word (10_state.md R70), and the statement about its bits. -/

namespace Sys2Proof.Machine

/-- A flag's word has at most the one bit of its column *bit* set (R70). -/
theorem flagWord_getLsbD (s : State) (f : Flag) (b : Nat) :
    (flagWord s f).getLsbD b = (s.flag f && decide (f.bit = b)) := by
  have hbit : f.bit < 32 := by cases f <;> decide
  unfold flagWord
  cases s.flag f <;> simp [BitVec.getLsbD_twoPow, hbit]

/-- The bits of the STATUS word, flag by flag (R70). -/
theorem statusWord_getLsbD (s : State) (b : Nat) :
    (statusWord s).getLsbD b =
      (s.attached && decide (0 = b) || s.halted && decide (1 = b) || s.pending && decide (2 = b) ||
        s.dir == .reverse && decide (3 = b)) := by
  simp only [statusWord, BitVec.getLsbD_or, flagWord_getLsbD]
  rfl

/-- Settles O15: each bit picks its flag, and no flag has a bit above the third. -/
theorem statusWordBits : Obligations.StatusWordBits := by
  intro s
  refine ⟨?_, ?_, ?_, ?_, fun b hb => ?_⟩ <;> rw [statusWord_getLsbD]
  case refine_5 =>
    have h : 0 ≠ b ∧ 1 ≠ b ∧ 2 ≠ b ∧ 3 ≠ b := by omega
    simp [h]
  all_goals simp [beq_eq_decide]

end Sys2Proof.Machine
end

section
/-! SUPPORT. What each command can come to, said once: `exec_performs`. The frame of every command and the
invariant are read off it. -/

namespace Sys2Proof.Machine

/-! ### What a command can make of the state -/

/-- What a command can make of the state, but for the output ports: it leaves everything alone (a read, a refusal), or has the
effect its rules give, under the checks that come before it. -/
inductive Effect (s : State) : Instr → State → Prop
  | unchanged {i : Instr} : Effect s i s
  | waveform {v : Int} {w : Waveform} : s.pending = false → builtinOfCode v = some w →
      Effect s (.setAttrWaveform v) { s with waveform := w, phase := 0 }
  | duty {v : Int} : s.pending = false →
      Effect s (.setAttrDutyCycle v) { s with duty := clampNat v 1 (s.cfg.nSquare - 1) }
  | period {v : Int} : s.pending = false →
      Effect s (.setAttrPeriod v) { s with period := clampNat v s.cfg.periodMin s.cfg.periodMax }
  | phase {v : Int} : s.pending = false → s.waveform ≠ .sample →
      Effect s (.setAttrPhase v) { s with phase := clampNat v 0 (phaseCount s - 1) }
  | phaseOfSample {v : Int} : s.pending = false → s.waveform = .sample →
      Effect s (.setAttrPhase v) (restart { s with phase := clampNat v 0 (phaseCount s - 1) })
  | allVolumes {v : Int} : s.pending = false →
      Effect s (.setAttrVolume v) (s.setAllVolumes (clampNat v 0 s.cfg.volMax))
  | volume {n : Nat} {v : Int} : s.pending = false → n < s.cfg.maxChannels →
      Effect s (.setAttrVolumeN n v) (s.setVolume n (clampNat v 0 s.cfg.volMax))
  | sampleOffset {v : Int} : s.pending = false → s.samplePtr ≠ 0 →
      Effect s (.setAttrSampleOffset v) (restart { s with sampleOffset := clampNat v 0 s.sampleShape.frames })
  | sampleEnd {v : Int} : s.pending = false → s.samplePtr ≠ 0 →
      Effect s (.setAttrSampleEnd v) (restart { s with sampleEnd := clampNat v 0 s.sampleShape.frames })
  | samplePeriod {v : Int} : s.pending = false →
      Effect s (.setAttrSamplePeriod v)
        { s with samplePeriod := clampInt v (-Config.samplePeriodMax) Config.samplePeriodMax }
  | sampleRepeat {v : Int} {p : Policy} : s.pending = false → policyOfCode v = some p →
      Effect s (.setAttrSampleRepeat v) { s with sampleRepeat := p }
  | sampleCallback {v : Int} : s.pending = false →
      Effect s (.setAttrSampleCallback v) { s with sampleCallback := clampInt v 0 1 == 1 }
  | dropWave : s.pending = false → Effect s (.setPtrWaveform 0) (dropWave s)
  | wavePtr {h : Nat} {sh : Shape} : s.pending = false → dataShape s h = some sh → waveOK s.cfg (some sh) = true →
      Effect s (.setPtrWaveform h)
        { s with wavePtr := h, waveShape := sh, waveIdentity := .same, waveform := .custom, phase := 0 }
  | dropSample : s.pending = false → Effect s (.setPtrSample 0) (dropSample s)
  | samplePtr {h : Nat} {sh : Shape} : s.pending = false → dataShape s h = some sh → sampleOK s.cfg (some sh) = true →
      Effect s (.setPtrSample h) (restart
        { s with
          samplePtr := h
          sampleShape := sh
          sampleIdentity := .same
          waveform := .sample
          phase := 0
          sampleOffset := 0
          sampleEnd := sh.frames })
  | run {e : Nat} {u : State} : s.pending = false → s.attached = true → e ≤ s.cfg.maxEndTime →
      continueCommand .run e [] s = .next u → Effect s (.run e) u
  | endChunk {e : Nat} {u : State} : s.pending = false → s.attached = true → e ≤ s.cfg.maxEndTime →
      continueCommand (.endChunk (wholeSamples s.cfg e)) e [] s = .next u → Effect s (.endChunk e) u
  | reset : s.pending = false → Effect s .reset (clearTime s)
  | attach {n : Int} : s.pending = false → s.attached = false → 1 ≤ n → n ≤ s.cfg.maxChannels →
      Effect s (.attach n) (clearTime { s with attached := true, nch := n.toNat })
  | detach : s.pending = false → s.attached = true → Effect s .detach (clearTime { s with attached := false, nch := 0 })
  | replaced {h : Nat} : s.pending = false → h ≠ 0 →
      Effect s (.dataNotifyReplaced h) (replaceSample h (replaceWave h s))
  | disposed {h : Nat} : s.pending = false → h ≠ 0 →
      Effect s (.dataNotifyDisposed h) (disposeSample h (disposeWave h s))
  | reply {v : Int} {q : Susp} {p : Policy} {u : State} : s.pending = true → s.susp = some q → policyOfCode v = some p →
      resume q p (leaveBoundaryWait s) = .next u → Effect s (.boundaryReply v) u

/-- The result goes on only with an effect of the command and its outputs. -/
def Performs (i : Instr) (s : State) (r : Result) : Prop := ∀ t, r = .next t → ∃ u es, t = u.emit es ∧ Effect s i u

section
variable {i : Instr} {s u : State} {st : Status} {a b : Result}

/-- A command that succeeds with one of its effects. -/
theorem performs_succeed (h : Effect s i u) : Performs i s (succeed u) := by
  rintro _ ⟨⟩
  exact ⟨u, _, rfl, h⟩

/-- A failure changes nothing but the output ports (R601). -/
theorem performs_fail : Performs i s (fail st s) := by
  rintro _ ⟨⟩
  exact ⟨s, _, rfl, .unchanged⟩

/-- An answer changes nothing but the output ports (R465). -/
theorem performs_answer (v : Word) : Performs i s (answer v s) := by
  rintro _ ⟨⟩
  exact ⟨s, _, rfl, .unchanged⟩

/-- A failed GET changes nothing but the output ports (R601). -/
theorem performs_failValue : Performs i s (failValue st s) := by
  rintro _ ⟨⟩
  exact ⟨s, _, rfl, .unchanged⟩

/-- A command that goes on with its effect, its outputs among it. -/
theorem performs_next (h : ∀ u, a = .next u → Effect s i u) : Performs i s a :=
  fun t ht => ⟨t, [], by simp [State.emit], h t ht⟩

/-- A choice between two courses. -/
theorem performs_ite {c : Prop} [Decidable c] (ha : c → Performs i s a) (hb : ¬ c → Performs i s b) :
    Performs i s (if c then a else b) := by
  split
  · exact ha ‹c›
  · exact hb ‹¬ c›

/-- Every command that writes registers is refused while pending (60_exceptions.md R612). -/
theorem performs_unlessPending (h : s.pending = false → Performs i s a) :
    Performs i s (if s.pending then fail .invalidState s else a) :=
  performs_ite (fun _ => performs_fail) fun hp => h (by simpa using hp)

/-- A check of the command, refused where it fails. -/
theorem performs_unless {c : Prop} [Decidable c] (h : ¬ c → Performs i s a) :
    Performs i s (if c then fail st s else a) :=
  performs_ite (fun _ => performs_fail) h

end

/-- SET_ATTR WAVEFORM (R400). -/
theorem execSetAttrWaveform_performs (v : Int) (s : State) :
    Performs (.setAttrWaveform v) s (execSetAttrWaveform v s) :=
  performs_unlessPending fun hp => by
    cases hw : builtinOfCode v with
    | none => exact performs_fail
    | some w => exact performs_ite (fun _ => performs_succeed .unchanged) fun _ => performs_succeed (.waveform hp hw)

/-- SET_ATTR PHASE (R403). -/
theorem execSetAttrPhase_performs (v : Int) (s : State) : Performs (.setAttrPhase v) s (execSetAttrPhase v s) :=
  performs_unlessPending fun hp => by
    by_cases hw : s.waveform = .sample
    · simpa [hw] using performs_succeed (.phaseOfSample hp hw)
    · simpa [hw] using performs_succeed (.phase hp hw)

/-- SET_ATTR SAMPLE_REPEAT (R409). -/
theorem execSetAttrSampleRepeat_performs (v : Int) (s : State) :
    Performs (.setAttrSampleRepeat v) s (execSetAttrSampleRepeat v s) :=
  performs_unlessPending fun hp => by
    cases hq : policyOfCode v with
    | none => exact performs_fail
    | some p => exact performs_succeed (.sampleRepeat hp hq)

/-- SET_PTR WAVEFORM (R500). -/
theorem execSetPtrWaveform_performs (h : Nat) (s : State) :
    Performs (.setPtrWaveform h) s (execSetPtrWaveform h s) :=
  performs_unlessPending fun hp => performs_ite (fun h0 => h0 ▸ performs_succeed (.dropWave hp)) fun _ => by
    cases hs : dataShape s h with
    | none => exact performs_fail
    | some sh => exact performs_ite (fun hok => performs_succeed (.wavePtr hp hs hok)) fun _ => performs_fail

/-- SET_PTR SAMPLE (R501). -/
theorem execSetPtrSample_performs (h : Nat) (s : State) : Performs (.setPtrSample h) s (execSetPtrSample h s) :=
  performs_unlessPending fun hp => performs_ite (fun h0 => h0 ▸ performs_succeed (.dropSample hp)) fun _ => by
    cases hs : dataShape s h with
    | none => exact performs_fail
    | some sh => exact performs_ite (fun hok => performs_succeed (.samplePtr hp hs hok)) fun _ => performs_fail

/-- BOUNDARY_REPLY (R322). -/
theorem execBoundaryReply_performs (v : Int) (s : State) :
    Performs (.boundaryReply v) s (execBoundaryReply v s) :=
  performs_unless fun hp => by
    cases hq : s.susp with
    | none => exact performs_fail
    | some q =>
      cases hv : policyOfCode v with
      | none => exact performs_fail
      | some p => exact performs_next fun u hu => .reply (by simpa using hp) hq hv hu

/-- What `exec` can come to, command by command; the last case is the GETs, which answer and do nothing else. -/
theorem exec_performs (i : Instr) (s : State) : Performs i s (exec i s) := by
  cases i with
  | setAttrWaveform v => exact execSetAttrWaveform_performs v s
  | setAttrDutyCycle v => exact performs_unlessPending fun hp => performs_succeed (.duty hp)
  | setAttrPeriod v => exact performs_unlessPending fun hp => performs_succeed (.period hp)
  | setAttrPhase v => exact execSetAttrPhase_performs v s
  | setAttrVolume v => exact performs_unlessPending fun hp => performs_succeed (.allVolumes hp)
  | setAttrVolumeN n v =>
    exact performs_unlessPending fun hp => performs_unless fun hn => performs_succeed (.volume hp (Nat.lt_of_not_le hn))
  | setAttrSampleOffset v =>
    exact performs_unlessPending fun hp => performs_unless fun h0 => performs_succeed (.sampleOffset hp h0)
  | setAttrSampleEnd v =>
    exact performs_unlessPending fun hp => performs_unless fun h0 => performs_succeed (.sampleEnd hp h0)
  | setAttrSamplePeriod v => exact performs_unlessPending fun hp => performs_succeed (.samplePeriod hp)
  | setAttrSampleRepeat v => exact execSetAttrSampleRepeat_performs v s
  | setAttrSampleCallback v => exact performs_unlessPending fun hp => performs_succeed (.sampleCallback hp)
  | getAttrVolumeN n => exact performs_ite (fun _ => performs_answer _) fun _ => performs_failValue
  | setPtrWaveform h => exact execSetPtrWaveform_performs h s
  | setPtrSample h => exact execSetPtrSample_performs h s
  | run e =>
    exact performs_unlessPending fun hp => performs_unless fun ha => performs_unless fun he =>
      performs_next fun u hu => .run hp (by simpa using ha) (Nat.le_of_not_lt he) hu
  | endChunk e =>
    exact performs_unlessPending fun hp => performs_unless fun ha => performs_unless fun he =>
      performs_next fun u hu => .endChunk hp (by simpa using ha) (Nat.le_of_not_lt he) hu
  | reset => exact performs_unlessPending fun hp => performs_succeed (.reset hp)
  | attach n =>
    exact performs_unlessPending fun hp => performs_unless fun ha => performs_unless fun hn =>
      performs_succeed (.attach hp (by simpa using ha) (by omega) (by omega))
  | detach =>
    exact performs_unlessPending fun hp => performs_unless fun ha => performs_succeed (.detach hp (by simpa using ha))
  | dataNotifyReplaced h =>
    exact performs_unlessPending fun hp => performs_unless fun h0 => performs_succeed (.replaced hp h0)
  | dataNotifyDisposed h =>
    exact performs_unlessPending fun hp => performs_unless fun h0 => performs_succeed (.disposed hp h0)
  | boundaryReply v => exact execBoundaryReply_performs v s
  | reservedOp0 _ _ | reservedOpcToOpf _ _ _ => exact performs_fail
  | _ => exact performs_answer _

end Sys2Proof.Machine
end

section
/-! SUPPORT. The frame of every command (10_state.md R50, the column *written by*). -/

namespace Sys2Proof.Machine

/-! ### What RUN, END and BOUNDARY_REPLY leave alone, from every state -/

/-- A step, taken or waiting on the host, keeps the attributes. -/
theorem takeStep_sameAttributes (s : State) :
    (∀ t r, takeStep s = .taken t r → SameAttributes s t) ∧ ∀ t cur, takeStep s = .request t cur → SameAttributes s t := by
  unfold takeStep
  cases amplitudesBelow s s.nch with
  | error f => simp
  | ok as =>
    cases hv : advance s with
    | done u =>
      refine ⟨fun t r ht => ?_, by simp⟩
      cases ht
      exact (advance_done_same s u hv).1.trans' (by constructor <;> rfl)
    | request u e =>
      refine ⟨by simp, fun t cur ht => ?_⟩
      cases ht
      obtain ⟨-, -, -, rfl, -⟩ := advance_request s u e hv
      constructor <;> rfl

/-- The step loop keeps the attributes, whether it finishes or is suspended. -/
theorem runSteps_sameAttributes (endTime k : Nat) (s : State) (steps : List StepRecord) :
    (∀ t rs, runSteps endTime k s steps = .finished t rs → SameAttributes s t) ∧
      ∀ t rs cur, runSteps endTime k s steps = .suspended t rs cur → SameAttributes s t := by
  induction k generalizing s steps with
  | zero => exact ⟨by rintro _ _ ⟨⟩; exact .rfl' s, by rintro _ _ _ ⟨⟩⟩
  | succ k ih =>
    obtain ⟨htaken, hrequest⟩ := takeStep_sameAttributes s
    unfold runSteps
    split
    · cases hs : takeStep s with
      | taken u r =>
        obtain ⟨hfin, hsusp⟩ := ih u (steps ++ [r])
        have hu := htaken u r hs
        exact ⟨fun t rs ht => hu.trans' (hfin t rs ht), fun t rs cur ht => hu.trans' (hsusp t rs cur ht)⟩
      | request u cur => exact ⟨by rintro _ _ ⟨⟩, by rintro _ _ _ ⟨⟩; exact hrequest u cur hs⟩
      | faulted f => exact ⟨by rintro _ _ ⟨⟩, by rintro _ _ _ ⟨⟩⟩
    · exact ⟨by rintro _ _ ⟨⟩; exact .rfl' s, by rintro _ _ _ ⟨⟩⟩

/-- A whole RUN or END, or the rest of one, keeps the attributes. -/
theorem continueCommand_sameAttributes {kind : SuspKind} {endTime : Nat} {steps : List StepRecord} {s u : State}
    (h : continueCommand kind endTime steps s = .next u) : SameAttributes s u := by
  obtain ⟨hfin, hsusp⟩ := runSteps_sameAttributes endTime (stepsDue s endTime) s steps
  rcases continueCommand_cases kind endTime steps s with ⟨t, rs, ht, e⟩ | ⟨t, rs, cur, ht, e⟩ | ⟨f, -, e⟩ <;>
    rw [e] at h <;> cases h
  · refine ((hfin t rs ht).trans' (emitSteps_same rs t)).trans' ?_
    rw [applyShift_eq]
    constructor <;> rfl
  · exact (hsusp t rs cur ht).trans' (by constructor <;> rfl)

/-- The host's reply and the command it resumes keep the attributes. -/
theorem resume_sameAttributes {q : Susp} {p : Policy} {s u : State} (h : resume q p (leaveBoundaryWait s) = .next u) :
    SameAttributes s u := by
  refine .trans' ?_ (continueCommand_sameAttributes h)
  rw [applyPolicy_frame]
  constructor <;> rfl

/-! ### The frame of every command -/

/-- The two states agree on every field that is not listed. -/
def SameOff (fs : List StateField) (s t : State) : Prop := ∀ f, f ∉ fs → f.same s t

/-- The output ports are no field of `StateField`. -/
theorem StateField.same_emit (f : StateField) (s t : State) (es : List PortEvent) : f.same s (t.emit es) ↔ f.same s t := by
  cases f <;> rfl

/-- Nothing changed. -/
theorem sameOff_rfl (fs : List StateField) (s : State) : SameOff fs s s := by
  intro f _
  cases f <;> rfl

/-- Two changes, the second within the fields listed for the first. -/
theorem SameOff.trans {fs gs : List StateField} {s t u : State} (h : SameOff fs s t) (g : SameOff gs t u)
    (hs : gs ⊆ fs := by simp [writes, clearFields, notifyFields]) : SameOff fs s u := by
  intro f hf
  have ht := h f hf
  have hu := g f fun hm => hf (hs hm)
  cases f <;> exact Eq.trans hu ht

/-- Field by field: each is listed, or the same. -/
theorem sameOff_of_forall {fs : List StateField} {s t : State} (h : ∀ f, f ∈ fs ∨ f.same s t) : SameOff fs s t :=
  fun f hf => (h f).resolve_left hf

/-- What RUN, END and BOUNDARY_REPLY never write is everything but what steps write (R50). -/
theorem SameAttributes.sameOff {s t : State} (h : SameAttributes s t) : SameOff stepFields s t := by
  refine sameOff_of_forall ?_
  obtain ⟨⟩ := h
  rintro ⟨⟩ <;> simp [stepFields, StateField.same, *]

/-- Restart writes the playback position alone (R302). -/
theorem restart_sameOff (s : State) : SameOff [.pos, .dir, .halted] s (restart s) := by
  rw [restart_eq]
  exact sameOff_of_forall (by rintro ⟨⟩ <;> simp [StateField.same])

/-- ClearTime writes the counters and the playback position alone (R357). -/
theorem clearTime_sameOff (s : State) : SameOff clearFields s (clearTime s) := by
  rw [clearTime_eq]
  exact sameOff_of_forall (by rintro ⟨⟩ <;> simp [StateField.same, clearFields])

/-- Dropping the table writes what SET_PTR WAVEFORM does (R507). -/
theorem dropWave_sameOff (s : State) : SameOff (writes (.setPtrWaveform 0)) s (dropWave s) := by
  rw [dropWave_eq]
  exact sameOff_of_forall (by rintro ⟨⟩ <;> simp [StateField.same, writes])

/-- Dropping the sample writes what SET_PTR SAMPLE does (R508). -/
theorem dropSample_sameOff (s : State) : SameOff (writes (.setPtrSample 0)) s (dropSample s) := by
  rw [dropSample_eq]
  exact sameOff_of_forall (by rintro ⟨⟩ <;> simp [StateField.same, writes])

/-- The wave part of DATA_NOTIFY REPLACED writes what SET_PTR WAVEFORM does (R505, R507). -/
theorem replaceWave_sameOff (h : Nat) (s : State) : SameOff (writes (.setPtrWaveform 0)) s (replaceWave h s) := by
  unfold replaceWave
  split
  · split
    · exact dropWave_sameOff s
    · split
      · split <;> exact sameOff_of_forall (by rintro ⟨⟩ <;> simp [StateField.same, writes])
      · exact dropWave_sameOff s
  · exact sameOff_rfl _ s

/-- The sample part of DATA_NOTIFY REPLACED writes what SET_PTR SAMPLE does (R505, R508). -/
theorem replaceSample_sameOff (h : Nat) (s : State) : SameOff (writes (.setPtrSample 0)) s (replaceSample h s) := by
  unfold replaceSample
  split
  · split
    · exact dropSample_sameOff s
    · split
      · exact .trans (sameOff_of_forall (by rintro ⟨⟩ <;> simp [StateField.same, writes])) (restart_sameOff _)
      · exact dropSample_sameOff s
  · exact sameOff_rfl _ s

/-- The wave part of DATA_NOTIFY DISPOSED (R506). -/
theorem disposeWave_sameOff (h : Nat) (s : State) : SameOff (writes (.setPtrWaveform 0)) s (disposeWave h s) := by
  unfold disposeWave
  split
  · exact dropWave_sameOff s
  · exact sameOff_rfl _ s

/-- The sample part of DATA_NOTIFY DISPOSED (R506). -/
theorem disposeSample_sameOff (h : Nat) (s : State) : SameOff (writes (.setPtrSample 0)) s (disposeSample h s) := by
  unfold disposeSample
  split
  · exact dropSample_sameOff s
  · exact sameOff_rfl _ s

/-- What a command makes of the state differs in the fields it is listed to write alone (R50). -/
theorem Effect.sameOff {i : Instr} {s u : State} (h : Effect s i u) : SameOff (writes i) s u := by
  cases h with
  | unchanged => exact sameOff_rfl _ s
  | phaseOfSample | sampleOffset | sampleEnd | samplePtr =>
    exact .trans (sameOff_of_forall (by rintro ⟨⟩ <;> simp [StateField.same, writes])) (restart_sameOff _)
  | dropWave => exact dropWave_sameOff s
  | dropSample => exact dropSample_sameOff s
  | run _ _ _ hu | endChunk _ _ _ hu => exact (continueCommand_sameAttributes hu).sameOff
  | reply _ _ _ hu => exact (resume_sameAttributes hu).sameOff
  | reset => exact clearTime_sameOff s
  | attach | detach =>
    exact .trans (sameOff_of_forall (by rintro ⟨⟩ <;> simp [StateField.same, writes])) (clearTime_sameOff _)
  | replaced =>
    exact ((sameOff_rfl notifyFields s).trans (replaceWave_sameOff _ s)).trans (replaceSample_sameOff _ _)
  | disposed =>
    exact ((sameOff_rfl notifyFields s).trans (disposeWave_sameOff _ s)).trans (disposeSample_sameOff _ _)
  | waveform | duty | period | phase | allVolumes | volume | samplePeriod | sampleRepeat | sampleCallback | wavePtr =>
    exact sameOff_of_forall (by rintro ⟨⟩ <;> simp [StateField.same, writes])

/-- Settles O56, from the effects of the commands. -/
theorem commandsWriteOnlyTheirFields : Obligations.CommandsWriteOnlyTheirFields := by
  intro s t i f hexec hf
  obtain ⟨u, es, rfl, hu⟩ := exec_performs i s t hexec
  exact (f.same_emit s u es).2 (hu.sameOff f hf)

end Sys2Proof.Machine
end

section
/-! SUPPORT. The invariant of 10_state.md R75 under each write of the registers: one lemma per kind of write, for a
state in which nothing is pending. -/

namespace Sys2Proof.Machine

/-! ### What the invariant gives, and what gives the invariant -/

/-- Outputs and waiting command words are no part of the invariant. -/
theorem emit_inv {s : State} (hI : s.Inv) (es : List PortEvent) : (s.emit es).Inv := hI

/-- No command is suspended where none is pending (R71). -/
theorem susp_eq_none {s : State} (hI : s.Inv) (hp : s.pending = false) : s.susp = none := by
  obtain ⟨-, -, -, -, -, -, ⟨hsusp, -⟩, -⟩ := hI
  rw [hp] at hsusp
  simpa using hsusp

/-- Where no command is suspended, the pending part of the invariant asks for nothing more (R75 item 7). -/
theorem pendingInv_of_idle {s : State} (hp : s.pending = false) (hs : s.susp = none) : s.PendingInv := by
  refine ⟨by simp [hp, hs], by simp [hp], ?_⟩
  rw [hs]
  simp

/-- Every waveform has a phase (R53). -/
theorem phaseCount_pos {s : State} (hc : s.cfg.WellFormed) (h : s.waveform = .custom → 1 ≤ s.waveShape.frames) :
    0 < phaseCount s := by
  obtain ⟨⟨-, ⟨h1, h2, h3, h4, h5⟩, -⟩, -⟩ := hc
  unfold phaseCount
  cases hw : s.waveform with
  | custom => exact h hw
  | sample => exact Nat.one_pos
  | square | triangle | noise | sawtooth | sine => simp only; omega

/-- The phase count depends on the configuration, the waveform and, for CUSTOM, the shape validated (R53). -/
theorem phaseCount_congr {s t : State} (hc : t.cfg = s.cfg) (hw : t.waveform = s.waveform)
    (hsh : s.waveform = .custom → t.waveShape = s.waveShape) : phaseCount t = phaseCount s := by
  unfold phaseCount
  rw [hw, hc]
  cases h : s.waveform with
  | custom => simp only [hsh h]
  | _ => rfl

/-- A clamped value is in its range (R10). -/
theorem clampInt_range {v lo hi : Int} (h : lo ≤ hi) : lo ≤ clampInt v lo hi ∧ clampInt v lo hi ≤ hi := by
  unfold clampInt
  omega

/-- A clamped value is in its range (R10). -/
theorem clampNat_range {v : Int} {lo hi : Nat} (h : lo ≤ hi) : lo ≤ clampNat v lo hi ∧ clampNat v lo hi ≤ hi := by
  have := clampInt_range (v := v) (show (lo : Int) ≤ hi by omega)
  unfold clampNat
  omega

/-- SET_ATTR PHASE stays below the phase count (R403). -/
theorem clampedPhase_lt {s : State} (hI : s.Inv) (v : Int) : clampNat v 0 (phaseCount s - 1) < phaseCount s := by
  obtain ⟨-, -, ⟨hphase, -⟩, -⟩ := hI
  have hclamp := (clampNat_range (v := v) (Nat.zero_le (phaseCount s - 1))).2
  exact Nat.lt_of_le_of_lt hclamp (Nat.sub_one_lt_of_lt hphase)

/-- The range of SET_ATTR DUTY_CYCLE is not empty (R56, R401). -/
theorem duty_range_nonempty {p : Config.Params} (h : p.WellFormed) : 1 ≤ p.nSquare - 1 := by
  obtain ⟨⟨-, ⟨hsquare, -⟩, -⟩, -⟩ := h
  omega

/-- The range of SET_ATTR PERIOD is not empty (R57, R402). -/
theorem period_range_nonempty {p : Config.Params} (h : p.WellFormed) : p.periodMin ≤ p.periodMax := by
  obtain ⟨-, ⟨⟨-, hmin, hmax⟩, -⟩, -⟩ := h
  exact le_trans hmin hmax

/-- A custom table has at least one frame (R509). -/
theorem customMin_pos {p : Config.Params} (h : p.WellFormed) : 1 ≤ p.customMin := by
  obtain ⟨-, ⟨-, -, -, -, ⟨hmin, -⟩, -⟩, -⟩ := h
  exact hmin

/-- What ClearTime writes is in range (R357): the noise register's seed, and time 0 below the bound of R73. -/
theorem clearTime_values {p : Config.Params} (h : p.WellFormed) :
    (0 < p.lfsrSeed ∧ p.lfsrSeed < 2 ^ p.lfsrBits) ∧ 0 < p.periodMax := by
  obtain ⟨-, ⟨⟨hmin, hreset, hmax⟩, -, -, -, -, -, ⟨-, hseed⟩, -⟩, -⟩ := h
  exact ⟨hseed, by omega⟩

/-- The sample range lies in the frames validated (R62, R63). -/
theorem sampleRange_le {s : State} (hI : s.Inv) :
    s.sampleOffset ≤ s.sampleShape.frames ∧ s.sampleEnd ≤ s.sampleShape.frames := by
  obtain ⟨-, -, -, -, ⟨-, -, -, -, -, -, hrange, -⟩, -⟩ := hI
  exact hrange

/-! ### Writes of one register -/

section
variable {s : State} (hI : s.Inv) (hp : s.pending = false)
include hI hp

/-- A phase below the phase count (R55). -/
theorem setPhase_inv {n : Nat} (hn : n < phaseCount s) : ({ s with phase := n } : State).Inv := by
  have hidle := susp_eq_none hI hp
  obtain ⟨hC, hL, ⟨-, hW⟩, hT, hP, hX, -, hD⟩ := hI
  exact ⟨hC, hL, ⟨hn, hW⟩, hT, hP, hX, pendingInv_of_idle hp hidle, hD⟩

/-- A duty in the range of R56. -/
theorem setDuty_inv {d : Nat} (hd : 1 ≤ d ∧ d ≤ s.cfg.nSquare - 1) : ({ s with duty := d } : State).Inv := by
  have hidle := susp_eq_none hI hp
  obtain ⟨hC, hL, ⟨hphase, -, hW⟩, hT, hP, hX, -, hD⟩ := hI
  exact ⟨hC, hL, ⟨hphase, hd, hW⟩, hT, hP, hX, pendingInv_of_idle hp hidle, hD⟩

/-- A period in the range of R57. -/
theorem setPeriod_inv {n : Nat} (hn : s.cfg.periodMin ≤ n ∧ n ≤ s.cfg.periodMax) :
    ({ s with period := n } : State).Inv := by
  have hidle := susp_eq_none hI hp
  obtain ⟨hC, hL, ⟨hphase, hduty, -, hW⟩, hT, hP, hX, -, hD⟩ := hI
  exact ⟨hC, hL, ⟨hphase, hduty, hn, hW⟩, hT, hP, hX, pendingInv_of_idle hp hidle, hD⟩

/-- Gains in the range of R60, one for each channel. -/
theorem writeVolumes_inv {vs : List Nat} (hlen : vs.length = s.cfg.maxChannels)
    (hv : ∀ c < s.cfg.maxChannels, ({ s with volume := vs } : State).volumeAt c ≤ s.cfg.volMax) :
    ({ s with volume := vs } : State).Inv := by
  have hidle := susp_eq_none hI hp
  obtain ⟨⟨hcfg, -, hlast⟩, hL, ⟨hphase, hduty, hper, -, hlfsr⟩, hT, hP, hX, -, hD⟩ := hI
  exact ⟨⟨hcfg, hlen, hlast⟩, hL, ⟨hphase, hduty, hper, hv, hlfsr⟩, hT, hP, hX, pendingInv_of_idle hp hidle, hD⟩

/-- One gain for all channels (R404). -/
theorem setAllVolumes_inv {v : Nat} (hv : v ≤ s.cfg.volMax) : (s.setAllVolumes v).Inv :=
  writeVolumes_inv hI hp List.length_replicate fun c hc => (setAllVolumes_volumeAt s v c hc).trans_le hv

/-- One channel's gain (R405). -/
theorem setVolume_inv {n v : Nat} (hn : n < s.cfg.maxChannels) (hv : v ≤ s.cfg.volMax) : (s.setVolume n v).Inv := by
  have hC : s.ConfigInv := hI.1
  have hW : s.WaveInv := hI.2.2.1
  obtain ⟨-, hlen, -⟩ := hC
  obtain ⟨-, -, -, hvol, -⟩ := hW
  refine writeVolumes_inv hI hp (List.length_set.trans hlen) fun c hc => ?_
  change (s.setVolume n v).volumeAt c ≤ s.cfg.volMax
  by_cases h : n = c
  · subst h
    rwa [setVolume_volumeAt_same s n v (hlen.symm ▸ hn)]
  · rw [setVolume_volumeAt_other s n c v h]
    exact hvol c hc

/-- A built-in waveform from its first phase (R400). -/
theorem setWaveform_inv {w : Waveform} (hw : w ≠ .custom ∧ w ≠ .sample) :
    ({ s with waveform := w, phase := 0 } : State).Inv := by
  have hidle := susp_eq_none hI hp
  obtain ⟨hC, hL, ⟨-, hW⟩, hT, ⟨hptr, -, -, hP⟩, ⟨hpos, -⟩, -, hD⟩ := hI
  exact ⟨hC, hL, ⟨phaseCount_pos hC.1 fun h => absurd h hw.1, hW⟩, hT,
    ⟨hptr, fun h => absurd h hw.1, fun h => absurd h hw.2, hP⟩, ⟨hpos, fun h => absurd h hw.2⟩,
    pendingInv_of_idle hp hidle, hD⟩

/-- A sample period in the range of R64. -/
theorem setSamplePeriod_inv {v : Int} (hv : -Config.samplePeriodMax ≤ v ∧ v ≤ Config.samplePeriodMax) :
    ({ s with samplePeriod := v } : State).Inv := by
  have hidle := susp_eq_none hI hp
  obtain ⟨hC, hL, hW, hT, ⟨hptr, hcust, hsamp, hwsh, hssh, hnone, hrange, -⟩, hX, -, hD⟩ := hI
  exact ⟨hC, hL, hW, hT, ⟨hptr, hcust, hsamp, hwsh, hssh, hnone, hrange, hv⟩, hX,
    pendingInv_of_idle hp hidle, hD⟩

/-- Any repeat policy (R65). -/
theorem setSampleRepeat_inv (p : Policy) : ({ s with sampleRepeat := p } : State).Inv := by
  have hidle := susp_eq_none hI hp
  obtain ⟨hC, hL, hW, hT, hP, hX, -, hD⟩ := hI
  exact ⟨hC, hL, hW, hT, hP, hX, pendingInv_of_idle hp hidle, hD⟩

/-- The callback on or off (R66). -/
theorem setSampleCallback_inv (b : Bool) : ({ s with sampleCallback := b } : State).Inv := by
  have hidle := susp_eq_none hI hp
  obtain ⟨hC, hL, hW, hT, hP, hX, -, hD⟩ := hI
  exact ⟨hC, hL, hW, hT, hP, hX, pendingInv_of_idle hp hidle, hD⟩

/-- An earlier time (R270, R357). -/
theorem setTime_inv {n : Nat} (hn : n ≤ s.time) : ({ s with time := n } : State).Inv := by
  have hidle := susp_eq_none hI hp
  obtain ⟨hC, hL, hW, ⟨htime, hlast⟩, hP, hX, -, hD⟩ := hI
  exact ⟨hC, hL, hW, ⟨by simp only; omega, hlast⟩, hP, hX, pendingInv_of_idle hp hidle, hD⟩

/-! ### Handles -/

/-- A wave handle with the shape validated, played from its first phase (R500, R509). -/
theorem setWavePtr_inv {h : Nat} {sh : Shape} (hs : dataShape s h = some sh) (hok : waveOK s.cfg (some sh) = true) :
    ({ s with wavePtr := h, waveShape := sh, waveIdentity := .same, waveform := .custom, phase := 0 } : State).Inv := by
  have hidle := susp_eq_none hI hp
  obtain ⟨hC, hL, ⟨-, hW⟩, hT, ⟨hptr, -, -, -, hP⟩, ⟨hpos, -⟩, -, ⟨hD, hframes, -, hsample⟩⟩ := hI
  have hsh : s.cfg.customMin ≤ sh.frames ∧ sh.frames ≤ s.cfg.customMax := by simpa [waveOK] using hok
  have hmin := customMin_pos hC.1
  obtain ⟨⟨hh0, hh⟩, -⟩ := dataShape_spec s h sh hs hD
  exact ⟨hC, hL, ⟨phaseCount_pos hC.1 fun _ => le_trans hmin hsh.1, hW⟩, hT,
    ⟨⟨hh, hptr.2⟩, fun _ => hh0.ne', by simp, fun _ => hsh, hP⟩, ⟨hpos, by simp⟩,
    pendingInv_of_idle hp hidle, hD, hframes, by simp [Identity.former], hsample⟩

/-- The shape behind a wave handle validated anew, from the first phase where the table plays (R505). -/
theorem setWaveShape_inv {n : Nat} {sh : Shape} (hok : waveOK s.cfg (some sh) = true)
    (hn : n = if s.waveform = .custom then 0 else s.phase) :
    ({ s with waveShape := sh, waveIdentity := .same, phase := n } : State).Inv := by
  have hidle := susp_eq_none hI hp
  obtain ⟨hC, hL, ⟨hphase, hW⟩, hT, ⟨hptr, hcust, hsamp, -, hP⟩, hX, -, ⟨hD, hframes, -, hsample⟩⟩ := hI
  have hsh : s.cfg.customMin ≤ sh.frames ∧ sh.frames ≤ s.cfg.customMax := by simpa [waveOK] using hok
  have hmin := customMin_pos hC.1
  have hcount : n < phaseCount { s with waveShape := sh, waveIdentity := .same, phase := n } := by
    by_cases hw : s.waveform = .custom
    · rw [hn, if_pos hw]
      exact phaseCount_pos hC.1 fun _ => le_trans hmin hsh.1
    · rw [if_neg hw] at hn
      have hsame : phaseCount { s with waveShape := sh, waveIdentity := .same, phase := n } = phaseCount s :=
        phaseCount_congr rfl rfl fun h => absurd h hw
      rwa [hsame, hn]
  exact ⟨hC, hL, ⟨hcount, hW⟩, hT, ⟨hptr, hcust, hsamp, fun _ => hsh, hP⟩, hX, pendingInv_of_idle hp hidle, hD,
    hframes, by simp [Identity.former], hsample⟩

/-- No wave handle: CUSTOM gives way to SQUARE (R507). -/
theorem dropWave_inv : (dropWave s).Inv := by
  have hidle := susp_eq_none hI hp
  obtain ⟨hC, hL, ⟨hphase, hW⟩, hT, ⟨hptr, hcust, hsamp, -, hP⟩, ⟨hpos, hrange⟩, -, ⟨hD, hframes, -, hsample⟩⟩ := hI
  by_cases hw : s.waveform = .custom
  · simp only [dropWave, hw, if_true]
    exact ⟨hC, hL, ⟨phaseCount_pos hC.1 (by simp), hW⟩, hT, ⟨⟨by simp, hptr.2⟩, by simp, by simp, by simp, hP⟩,
      ⟨hpos, by simp⟩, pendingInv_of_idle hp hidle, hD, hframes, by simp [Identity.former], hsample⟩
  · simp only [dropWave, if_neg hw]
    have hcount : phaseCount { s with wavePtr := 0, waveShape := ⟨0, 0⟩, waveIdentity := .same } = phaseCount s :=
      phaseCount_congr rfl rfl fun h => absurd h hw
    exact ⟨hC, hL, ⟨hcount ▸ hphase, hW⟩, hT, ⟨⟨by simp, hptr.2⟩, fun h => absurd h hw, hsamp, by simp, hP⟩,
      ⟨hpos, hrange⟩, pendingInv_of_idle hp hidle, hD, hframes, by simp [Identity.former], hsample⟩

/-- The wave part of DATA_NOTIFY REPLACED (R505). -/
theorem replaceWave_inv (h : Nat) : (replaceWave h s).Inv := by
  unfold replaceWave
  split
  · split
    · exact dropWave_inv hI hp
    · split
      · rename_i hok
        split <;> exact setWaveShape_inv hI hp hok (by simp [*])
      · exact dropWave_inv hI hp
  · exact hI

/-- The wave part of DATA_NOTIFY DISPOSED (R506). -/
theorem disposeWave_inv (h : Nat) : (disposeWave h s).Inv := by
  unfold disposeWave
  split
  · exact dropWave_inv hI hp
  · exact hI

end

/-! ### Playback restarted -/

/-- The sample range lies in the positions a configuration has room for (R300, R501). -/
theorem range_bounds {s : State} (h : s.sampleEnd ≤ s.cfg.maxFrames) :
    0 ≤ rangeLo s ∧ rangeHi s ≤ fixedOf s.cfg s.cfg.maxFrames :=
  ⟨fixedOf_nonneg _ _, fixedOf_le _ h⟩

/-- The state with playback halted at position 0. -/
def State.parked (s : State) : State := { s with pos := 0, halted := true }

/-- Position 0 is in the bounds of R501. -/
theorem pos_zero_bounds (p : Config.Params) :
    -Config.samplePeriodMax ≤ 0 ∧ 0 < fixedOf p p.maxFrames + Config.samplePeriodMax := by
  have := fixedOf_nonneg p p.maxFrames
  have : Config.samplePeriodMax = 2147483647 := rfl
  omega

/-- Playback can be parked in every legal state that is not pending. -/
theorem parked_inv {s : State} (hI : s.Inv) (hp : s.pending = false) : s.parked.Inv := by
  have hidle := susp_eq_none hI hp
  obtain ⟨hC, hL, hW, hT, ⟨hptr, hcust, hsamp, hwsh, hssh, hnone, hP⟩, -, -, hD⟩ := hI
  exact ⟨hC, hL, hW, hT, ⟨hptr, hcust, hsamp, hwsh, hssh, fun h => ⟨(hnone h).1, rfl⟩, hP⟩,
    ⟨pos_zero_bounds s.cfg, by simp [State.parked]⟩, pendingInv_of_idle hp hidle, hD⟩

/-- Restart places the position in a range that is not empty, and at the start of an empty one (R302). -/
theorem restart_pos_spec (s : State) :
    (s.sampleOffset < s.sampleEnd ∧ rangeLo s ≤ (restart s).pos ∧ (restart s).pos < rangeHi s) ∨
      (s.sampleEnd ≤ s.sampleOffset ∧ (restart s).pos = rangeLo s) := by
  rw [restart_eq]
  rcases Nat.lt_or_ge s.sampleOffset s.sampleEnd with h | h
  · have hstep := fixedOf_succ_le s.cfg h
    have hone := one_pos s.cfg
    refine .inl ⟨h, ?_⟩
    unfold rangeLo rangeHi
    simp only
    push_cast
    split <;> omega
  · exact .inr ⟨h, by simp [h]⟩

/-- Restart writes the direction, the halt and the position (R302). -/
theorem restart_frame (s : State) :
    restart s = { s with dir := .forward, halted := (restart s).halted, pos := (restart s).pos } := by
  rw [restart_eq]

/-- Where Restart leaves the position, by the bounds of R501 and R75 item 6. -/
theorem restart_positionInv {s : State} (hmax : s.sampleOffset ≤ s.cfg.maxFrames ∧ s.sampleEnd ≤ s.cfg.maxFrames)
    (hsamp : s.waveform = .sample → s.samplePtr ≠ 0) : (restart s).PositionInv := by
  have hspec := restart_pos_spec s
  have hhalted : (restart s).halted = decide (s.samplePtr ≠ 0 ∧ s.sampleEnd ≤ s.sampleOffset) := by rw [restart_eq]
  have hlo : 0 ≤ rangeLo s ∧ rangeLo s ≤ fixedOf s.cfg s.cfg.maxFrames := ⟨fixedOf_nonneg _ _, fixedOf_le _ hmax.1⟩
  have hhi : rangeHi s ≤ fixedOf s.cfg s.cfg.maxFrames := fixedOf_le _ hmax.2
  have hbound : Config.samplePeriodMax = 2147483647 := rfl
  rw [restart_frame]
  refine ⟨?_, fun hw hh _ => ?_⟩
  · simp only
    omega
  · have hempty : ¬ (s.samplePtr ≠ 0 ∧ s.sampleEnd ≤ s.sampleOffset) := by simpa [hhalted] using hh
    rcases hspec with ⟨-, hin⟩ | ⟨hle, -⟩
    · exact hin
    · exact absurd ⟨hsamp hw, hle⟩ hempty

/-- Restart makes a state legal that is legal parked: it depends on no position before it (R302, R75 item 6). -/
theorem restart_inv {s : State} (hp : s.pending = false) (hI : s.parked.Inv) : (restart s).Inv := by
  have hidle : s.susp = none := susp_eq_none (s := s.parked) hI hp
  obtain ⟨hC, hL, hW, hT, ⟨hptr, hcust, hsamp, hwsh, hssh, hnone, ⟨hoff, hend⟩, hper⟩, -, -, hD⟩ := hI
  have hmax : s.sampleShape.frames ≤ s.cfg.maxFrames := by
    by_cases h : s.samplePtr = 0
    · exact (hnone h).1.le.trans (Nat.zero_le _)
    · exact (hssh h).2
  have hX : (restart s).PositionInv := restart_positionInv ⟨le_trans hoff hmax, le_trans hend hmax⟩ hsamp
  have hpos : s.samplePtr = 0 → (restart s).pos = 0 := by
    intro h
    have hframes : s.sampleShape.frames = 0 := (hnone h).1
    have hoff0 : s.sampleOffset = 0 := Nat.le_zero.1 (hframes ▸ hoff)
    simp [restart_eq, h, rangeLo, fixedOf, hoff0]
  rw [restart_frame] at hX ⊢
  exact ⟨hC, hL, hW, hT, ⟨hptr, hcust, hsamp, hwsh, hssh, fun h => ⟨(hnone h).1, hpos h⟩, ⟨hoff, hend⟩, hper⟩, hX,
    pendingInv_of_idle hp hidle, hD⟩

section
variable {s : State} (hI : s.Inv) (hp : s.pending = false)
include hI hp

/-- A sample range within the frames validated, played from its start (R406, R407). -/
theorem restart_setRange_inv {o e : Nat} (ho : o ≤ s.sampleShape.frames) (he : e ≤ s.sampleShape.frames) :
    (restart { s with sampleOffset := o, sampleEnd := e }).Inv := by
  have hidle := susp_eq_none hI hp
  obtain ⟨hC, hL, hW, hT, ⟨hptr, hcust, hsamp, hwsh, hssh, hnone, -, hper⟩, ⟨hpos, -⟩, -, hD⟩ := parked_inv hI hp
  refine restart_inv hp ⟨hC, hL, hW, hT, ⟨hptr, hcust, hsamp, hwsh, hssh, hnone, ⟨ho, he⟩, hper⟩, ⟨hpos, ?_⟩,
    pendingInv_of_idle hp hidle, hD⟩
  simp [State.parked]

/-- A sample handle kept, with the shape validated anew and the whole of it as the range (R505, R509). -/
theorem restart_setSampleShape_inv {sh : Shape} (h0 : s.samplePtr ≠ 0) (hok : sampleOK s.cfg (some sh) = true) :
    (restart { s with sampleShape := sh, sampleIdentity := .same, sampleOffset := 0, sampleEnd := sh.frames }).Inv := by
  have hidle := susp_eq_none hI hp
  have hsh : 1 ≤ sh.frames ∧ sh.frames ≤ s.cfg.maxFrames := by simpa [sampleOK] using hok
  obtain ⟨hC, hL, hW, hT, ⟨hptr, hcust, hsamp, hwsh, -, -, -, hper⟩, ⟨hpos, -⟩, -, ⟨hD, hframes, hwave, -⟩⟩ :=
    parked_inv hI hp
  refine restart_inv hp ⟨hC, hL, hW, hT,
    ⟨hptr, hcust, hsamp, hwsh, fun _ => hsh, fun h => absurd h h0, ⟨Nat.zero_le _, le_rfl⟩, hper⟩, ⟨hpos, ?_⟩,
    pendingInv_of_idle hp hidle, hD, hframes, hwave, ?_⟩ <;> simp [State.parked, Identity.former]

/-- A sample handle taken, with its whole as the range (R501, R509). -/
theorem restart_setSamplePtr_inv {h : Nat} {sh : Shape} (hs : dataShape s h = some sh)
    (hok : sampleOK s.cfg (some sh) = true) :
    (restart
      { s with
        samplePtr := h
        sampleShape := sh
        sampleIdentity := .same
        waveform := .sample
        phase := 0
        sampleOffset := 0
        sampleEnd := sh.frames }).Inv := by
  have hidle := susp_eq_none hI hp
  have hsh : 1 ≤ sh.frames ∧ sh.frames ≤ s.cfg.maxFrames := by simpa [sampleOK] using hok
  obtain ⟨hC, hL, ⟨-, hW⟩, hT, ⟨hptr, -, -, hwsh, -, -, -, hper⟩, ⟨hpos, -⟩, -, ⟨hD, hframes, hwave, -⟩⟩ :=
    parked_inv hI hp
  obtain ⟨⟨hh0, hh⟩, -⟩ := dataShape_spec s h sh hs hD
  have h0 : h ≠ 0 := hh0.ne'
  refine restart_inv hp ⟨hC, hL, ⟨phaseCount_pos hC.1 ?_, hW⟩, hT,
    ⟨⟨hptr.1, hh⟩, ?_, fun _ => h0, hwsh, fun _ => hsh, fun h => absurd h h0, ⟨Nat.zero_le _, le_rfl⟩, hper⟩,
    ⟨hpos, ?_⟩, pendingInv_of_idle hp hidle, hD, hframes, hwave, ?_⟩ <;> simp [State.parked, Identity.former]

/-- No sample: an empty range at position 0, and SAMPLE gives way to SQUARE (R508). -/
theorem dropSample_inv : (dropSample s).Inv := by
  have hidle := susp_eq_none hI hp
  obtain ⟨hC, hL, ⟨hphase, hW⟩, hT, ⟨hptr, hcust, -, hwsh, -, -, -, hper⟩, -, -, ⟨hD, hframes, hwave, -⟩⟩ := hI
  rw [dropSample_eq]
  by_cases hw : s.waveform = .sample
  · simp only [hw, if_true]
    refine ⟨hC, hL, ⟨phaseCount_pos hC.1 ?_, hW⟩, hT, ⟨⟨hptr.1, ?_⟩, ?_, ?_, hwsh, ?_, ?_, ?_, hper⟩,
      ⟨pos_zero_bounds s.cfg, ?_⟩, pendingInv_of_idle hp hidle, hD, hframes, hwave, ?_⟩ <;> simp [Identity.former]
  · simp only [if_neg hw]
    refine ⟨hC, hL, ⟨hphase, hW⟩, hT, ⟨⟨hptr.1, ?_⟩, hcust, fun h => absurd h hw, hwsh, ?_, ?_, ?_, hper⟩,
      ⟨pos_zero_bounds s.cfg, fun h => absurd h hw⟩, pendingInv_of_idle hp hidle, hD, hframes, hwave, ?_⟩ <;>
      simp [Identity.former]

/-- The sample part of DATA_NOTIFY REPLACED (R505). -/
theorem replaceSample_inv {h : Nat} (h0 : h ≠ 0) : (replaceSample h s).Inv := by
  unfold replaceSample
  split
  · rename_i hptr
    split
    · exact dropSample_inv hI hp
    · split
      · rename_i hok
        exact restart_setSampleShape_inv hI hp (hptr ▸ h0) hok
      · exact dropSample_inv hI hp
  · exact hI

/-- The sample part of DATA_NOTIFY DISPOSED (R506). -/
theorem disposeSample_inv (h : Nat) : (disposeSample h s).Inv := by
  unfold disposeSample
  split
  · exact dropSample_inv hI hp
  · exact hI

/-! ### Lifecycle -/

/-- The time state cleared, with any attachment of R75 item 3 (R350, R352, R354, R357). -/
theorem clearTime_inv {b : Bool} {n : Nat} (hn : (b = false ↔ n = 0) ∧ n ≤ s.cfg.maxChannels) :
    (clearTime { s with attached := b, nch := n }).Inv := by
  have hidle := susp_eq_none hI hp
  have hcfg : s.cfg.WellFormed := hI.1.1
  obtain ⟨⟨-, hvolume, -⟩, -, ⟨hphase, hduty, hper, hvol, -⟩, -, hP, ⟨hpos, -⟩, -, hD⟩ := parked_inv hI hp
  obtain ⟨⟨hseed0, hseed⟩, hperiod⟩ := clearTime_values hcfg
  have hlast : ∀ c < s.cfg.maxChannels,
      LevelValue s.cfg (({ s with last := List.replicate s.cfg.maxChannels 0 } : State).lastAt c) := by
    intro c hc
    simpa [State.lastAt, hc] using levelValue_zero hcfg
  refine restart_inv hp ⟨⟨hcfg, hvolume, List.length_replicate⟩, hn,
    ⟨Nat.zero_lt_of_lt hphase, hduty, hper, hvol, hseed0.ne', hseed⟩, ⟨Nat.add_pos_right _ hperiod, hlast⟩, hP, ⟨hpos, ?_⟩,
    pendingInv_of_idle hp hidle, hD⟩
  simp [State.parked]

end

end Sys2Proof.Machine
end

section
/-! SUPPORT. The invariant of 10_state.md R75 under RUN, END, BOUNDARY_REPLY and so under every step. -/

namespace Sys2Proof.Machine

/-! ### RUN, END and BOUNDARY_REPLY -/

/-- END's shift makes the time no later (R270). -/
theorem applyShift_inv {s : State} (hI : s.Inv) (hp : s.pending = false) (kind : SuspKind) : (applyShift kind s).Inv := by
  cases kind with
  | run => exact hI
  | endChunk shift => exact setTime_inv hI hp (Nat.sub_le _ _)

/-- The wait on the host's answer, entered from the legal state `u` whose step crossed the boundary (R320, R607). -/
theorem enterBoundaryWait_inv {u : State} {kind : SuspKind} {endTime : Nat} {steps : List StepRecord}
    {cur : StepInProgress} (hI : u.Inv) (hp : u.pending = false) (hatt : u.attached = true) (hw : u.waveform = .sample)
    (hh : u.halted = false) (hcb : u.sampleCallback = true) (hout : outOfRange (movePos u) = true)
    (hlegal : Susp.legal (movePos u) ⟨kind, endTime, steps, cur⟩) :
    (enterBoundaryWait kind endTime steps cur (movePos u)).Inv := by
  obtain ⟨hC, hL, hW, hT, ⟨hptr, hcust, hsamp, hwsh, hssh, hnone, ⟨hoff, hend⟩, hper⟩, ⟨-, hrange⟩, -, hD⟩ := hI
  have hin := hrange hw hh hp
  have h0 : u.samplePtr ≠ 0 := hsamp hw
  have hlt : u.sampleOffset < u.sampleEnd := (rangeLo_lt_rangeHi u).1 (lt_of_le_of_lt hin.1 hin.2)
  obtain ⟨hlo, hhi⟩ := range_bounds (s := u) (le_trans hend (hssh h0).2)
  have hmove := sign_mul_bound u.dir u.samplePeriod _ hper
  have hbounds : -Config.samplePeriodMax ≤ (movePos u).pos ∧
      (movePos u).pos < fixedOf u.cfg u.cfg.maxFrames + Config.samplePeriodMax := by
    rw [movePos_pos]
    omega
  refine ⟨hC, hL, hW, hT, ⟨hptr, hcust, hsamp, hwsh, hssh, fun h => absurd h h0, ⟨hoff, hend⟩, hper⟩,
    ⟨hbounds, fun _ _ h => by simp [enterBoundaryWait] at h⟩,
    ⟨by simp [enterBoundaryWait], fun _ => ⟨hatt, hw, hh, hcb, hlt, hout⟩, ?_⟩, hD⟩
  rintro q ⟨⟩
  exact hlegal

/-- A whole RUN or END, or the rest of one, keeps the invariant. -/
theorem continueCommand_inv {kind : SuspKind} {endTime : Nat} {steps : List StepRecord} {s u : State}
    (hI : s.Inv) (hp : s.pending = false) (hatt : s.attached = true) (hE : endTime ≤ s.cfg.maxEndTime)
    (hkind : kind = .run ∨ kind = .endChunk (wholeSamples s.cfg endTime)) (hsteps : StepsLegal s endTime steps)
    (h : continueCommand kind endTime steps s = .next u) : u.Inv := by
  have hrun := runSteps_spec endTime (stepsDue s endTime) s hE steps hI hp hsteps rfl
  unfold continueCommand at h
  rcases hrun with ⟨t, rs, e, htI, -, htP, -, -, hrs⟩ |
    ⟨v, rs, cur, e, hvI, hvA, hvP, htime, hrs, hw, hh, hcb, hout, hedge, hcur, hlen, hamps⟩ | ⟨e, -⟩ <;>
    rw [e] at h <;> cases h
  · have htp : t.pending = false := htP.pending.trans hp
    have hep : (emitSteps rs t).pending = false := by rw [emitSteps_frame]; exact htp
    exact emit_inv (applyShift_inv (emitSteps_inv rs t endTime htI htp hrs) hep kind) _
  · rw [← hvA.cfg] at hE hkind
    exact enterBoundaryWait_inv hvI (hvP.pending.trans hp) (hvA.attached.trans hatt) hw hh hcb hout
      ⟨hE, hkind, ⟨hcur, htime⟩, ⟨hlen, hamps⟩, hedge, hrs⟩

/-- A policy moves playback alone: the attributes, the ports and the time stay (R308 to R310). -/
theorem applyPolicy_same (p : Policy) (s : State) :
    SameAttributes s (applyPolicy p s) ∧ SamePorts s (applyPolicy p s) ∧ (applyPolicy p s).time = s.time := by
  rw [applyPolicy_frame]
  exact ⟨by constructor <;> rfl, by constructor <;> rfl, rfl⟩

/-- A policy makes legal the playback that has crossed a boundary: it is halted, or back in the range (R308 to R310). -/
theorem applyPolicy_inv {s : State} (hI : s.parked.Inv) (hp : s.pending = false) (hw : s.waveform = .sample)
    (hlt : s.sampleOffset < s.sampleEnd)
    (hpos : -Config.samplePeriodMax ≤ s.pos ∧ s.pos < fixedOf s.cfg s.cfg.maxFrames + Config.samplePeriodMax)
    (p : Policy) : (applyPolicy p s).Inv := by
  have hidle : s.susp = none := susp_eq_none (s := s.parked) hI hp
  obtain ⟨hC, hL, hW, hT, ⟨hptr, hcust, hsamp, hwsh, hssh, -, ⟨hoff, hend⟩, hper⟩, -, -, hD⟩ := hI
  have h0 : s.samplePtr ≠ 0 := hsamp hw
  obtain ⟨hlo, hhi⟩ := range_bounds (le_trans hend (hssh h0).2 : s.sampleEnd ≤ s.cfg.maxFrames)
  have hbound : Config.samplePeriodMax = 2147483647 := rfl
  have hX : (applyPolicy p s).PositionInv := by
    have hspec := applyPolicy_spec p s hlt
    rw [applyPolicy_frame]
    rcases hspec with ⟨-, hhalt, hsame⟩ | ⟨-, -, hin⟩
    · exact ⟨by simpa only [hsame] using hpos, fun _ hh => by simp [hhalt] at hh⟩
    · exact ⟨by simp only; omega, fun _ _ _ => hin⟩
  rw [applyPolicy_frame] at hX ⊢
  exact ⟨hC, hL, hW, hT, ⟨hptr, hcust, hsamp, hwsh, hssh, fun h => absurd h h0, ⟨hoff, hend⟩, hper⟩, hX,
    pendingInv_of_idle hp hidle, hD⟩

/-- Only the position of a waiting oscillator is not legal without the wait (R607, R608). -/
theorem leaveBoundaryWait_parked_inv {s : State} (hI : s.Inv) : (leaveBoundaryWait s).parked.Inv := by
  obtain ⟨hC, hL, hW, hT, ⟨hptr, hcust, hsamp, hwsh, hssh, hnone, hP⟩, -, -, hD⟩ := hI
  exact ⟨hC, hL, hW, hT, ⟨hptr, hcust, hsamp, hwsh, hssh, fun h => ⟨(hnone h).1, rfl⟩, hP⟩,
    ⟨pos_zero_bounds s.cfg, by simp [State.parked]⟩, pendingInv_of_idle rfl rfl, hD⟩

/-- A reply keeps the invariant: the step in progress is recorded before the suspended command goes on (R320 item 4). -/
theorem resume_inv {q : Susp} {p : Policy} {s u : State} (hI : s.Inv) (hp : s.pending = true) (hq : s.susp = some q)
    (h : resume q p (leaveBoundaryWait s) = .next u) : u.Inv := by
  have hparked := leaveBoundaryWait_parked_inv hI
  have hper : 1 ≤ s.period := period_pos hI
  obtain ⟨-, -, -, -, -, ⟨hpos, -⟩, ⟨-, hpend, hlegal⟩, -⟩ := hI
  obtain ⟨hatt, hw, -, -, hlt, -⟩ := hpend hp
  obtain ⟨hE, hkind, ⟨hcur, htime⟩, ⟨hlen, hamps⟩, -, hsteps⟩ := hlegal q hq
  have hvI := applyPolicy_inv hparked rfl hw hlt hpos p
  obtain ⟨hvA, hvP, hvt⟩ := applyPolicy_same p (leaveBoundaryWait s)
  have hvcfg : (applyPolicy p (leaveBoundaryWait s)).cfg = s.cfg := hvA.cfg
  have hvtime : (applyPolicy p (leaveBoundaryWait s)).time = s.time := hvt
  have hrecorded : StepsLegal (addPeriod (applyPolicy p (leaveBoundaryWait s))) q.endTime
      (q.steps ++ [⟨q.cur.time, q.cur.amps⟩]) := by
    refine StepsLegal.snoc (s := s) hsteps hvcfg hvA.nch hcur htime ?_ hlen hamps
    rw [addPeriod_time, hvtime, hvA.period]
    exact Nat.lt_add_of_pos_right hper
  have hbefore : s.time < s.cfg.maxEndTime := lt_of_lt_of_le htime hE
  rw [← hvcfg] at hE hkind hbefore
  rw [← hvtime] at hbefore
  exact continueCommand_inv (addPeriod_inv _ hvI hvP.pending hbefore) hvP.pending (hvA.attached.trans hatt) hE hkind
    hrecorded h

/-! ### Every command -/

/-- The codes of SET_ATTR WAVEFORM name neither CUSTOM nor SAMPLE (R400). -/
theorem builtinOfCode_ne {v : Int} {w : Waveform} (h : builtinOfCode v = some w) : w ≠ .custom ∧ w ≠ .sample := by
  unfold builtinOfCode at h
  split_ifs at h <;> cases h <;> decide

/-- No steps are recorded before a command begins. -/
theorem stepsLegal_nil (s : State) (endTime : Nat) : StepsLegal s endTime [] := by
  simp [StepsLegal]

/-- What a command makes of a legal state is legal. -/
theorem Effect.inv {i : Instr} {s u : State} (h : Effect s i u) (hI : s.Inv) : u.Inv := by
  cases h with
  | unchanged => exact hI
  | waveform hp hw => exact setWaveform_inv hI hp (builtinOfCode_ne hw)
  | duty hp => exact setDuty_inv hI hp (clampNat_range (duty_range_nonempty hI.1.1))
  | period hp => exact setPeriod_inv hI hp (clampNat_range (period_range_nonempty hI.1.1))
  | phase hp => exact setPhase_inv hI hp (clampedPhase_lt hI _)
  | phaseOfSample hp => exact restart_inv hp (setPhase_inv (parked_inv hI hp) hp (clampedPhase_lt hI _))
  | allVolumes hp => exact setAllVolumes_inv hI hp (clampNat_range (Nat.zero_le _)).2
  | volume hp hn => exact setVolume_inv hI hp hn (clampNat_range (Nat.zero_le _)).2
  | sampleOffset hp => exact restart_setRange_inv hI hp (clampNat_range (Nat.zero_le _)).2 (sampleRange_le hI).2
  | sampleEnd hp => exact restart_setRange_inv hI hp (sampleRange_le hI).1 (clampNat_range (Nat.zero_le _)).2
  | samplePeriod hp => exact setSamplePeriod_inv hI hp (clampInt_range (by decide))
  | sampleRepeat hp => exact setSampleRepeat_inv hI hp _
  | sampleCallback hp => exact setSampleCallback_inv hI hp _
  | dropWave hp => exact dropWave_inv hI hp
  | wavePtr hp hs hok => exact setWavePtr_inv hI hp hs hok
  | dropSample hp => exact dropSample_inv hI hp
  | samplePtr hp hs hok => exact restart_setSamplePtr_inv hI hp hs hok
  | run hp ha he hu => exact continueCommand_inv hI hp ha he (.inl rfl) (stepsLegal_nil _ _) hu
  | endChunk hp ha he hu => exact continueCommand_inv hI hp ha he (.inr rfl) (stepsLegal_nil _ _) hu
  | reset hp => exact clearTime_inv hI hp hI.2.1
  | attach hp ha h1 hn => exact clearTime_inv hI hp (by simp; omega)
  | detach hp => exact clearTime_inv hI hp (by simp)
  | @replaced h hp h0 =>
    exact replaceSample_inv (replaceWave_inv hI hp h) ((replaceWave_sameOff h s .pending (by simp [writes])).trans hp) h0
  | @disposed h hp =>
    exact disposeSample_inv (disposeWave_inv hI hp h) ((disposeWave_sameOff h s .pending (by simp [writes])).trans hp) h
  | reply hp hq _ hu => exact resume_inv hI hp hq hu

/-- An illegal encoding is answered, and nothing else (R158). -/
theorem rejectIllegal_emits (why : Illegal) (s : State) : ∃ es, rejectIllegal why s = .next (s.emit es) := by
  unfold rejectIllegal
  cases why with
  | keyOnKeyless op => exact ⟨_, rfl⟩
  | reservedBits op | readOnlyKey => dsimp only; split <;> exact ⟨_, rfl⟩
  | unlistedKey op =>
    dsimp only
    split
    · exact ⟨_, rfl⟩
    · split <;> exact ⟨_, rfl⟩

/-- Settles O10, from the effects of the commands. -/
theorem stepKeepsInvariant : Obligations.StepKeepsInvariant := by
  intro s t hI hstep
  unfold step at hstep
  split at hstep
  case h_1 =>
    cases hstep
    exact hI
  case h_2 i rest _ =>
    obtain ⟨u, es, rfl, hu⟩ := exec_performs i _ t hstep
    exact emit_inv (hu.inv hI) es
  case h_3 why rest _ =>
    obtain ⟨es, hes⟩ := rejectIllegal_emits why { s with cmd := rest }
    rw [hes] at hstep
    cases hstep
    exact emit_inv (s := { s with cmd := rest }) hI es

end Sys2Proof.Machine
end

section
/-! SUPPORT. The words of a command decode to it (30_encoding.md R150 to R156), and so a step performs the command at the
front of the command port. -/

namespace Sys2Proof

/-! ### A header with its operands -/

/-- The header fields of a command that is no reserved operation: its key is an 8-bit one, and 0 on a keyless operation. -/
abbrev CommandHeader (op key : Nat) : Prop := 1 ≤ op ∧ op < 12 ∧ key < 256 ∧ (isKeyless op = true → key = 0)

/-- A command is its header with as many words as its operation has; the rest of the stream waits (R153). -/
theorem decode_eq_command {h : Word} {ops rest : List Word} {i : Instr}
    (hlen : ops.length + 1 = wordsOfOp (headerOp h))
    (hdec : decodeWords h ((ops ++ rest)[0]?.getD 0) ((ops ++ rest)[1]?.getD 0) = .ok i) :
    decode (h :: ops ++ rest) = .command i rest := by
  have hn : wordsOfOp (headerOp h) - 1 = ops.length := by omega
  simp only [List.cons_append, decode, hn, hdec]
  simp

/-- A header with nothing wrong is decoded by its operation (R152). -/
theorem decodeWords_mkHeader {op key : Nat} (hh : CommandHeader op key) (w1 w2 : Word) :
    decodeWords (mkHeader op key 0) w1 w2 = decodeOp op key w1 w2 := by
  obtain ⟨hop, hlt, hkey, hkeyless⟩ := hh
  have hnot : ¬ (isKeyless op = true ∧ key ≠ 0) := fun hc => hc.2 (hkeyless hc.1)
  simp only [decodeWords, headerOp_mkHeader op key 0 (by omega) hkey (by omega),
    headerKey_mkHeader op key 0 (by omega) hkey (by omega), headerRsv_mkHeader op key 0 (by omega) hkey (by omega)]
  rw [if_neg (by omega), if_neg (by omega), if_neg (by simp), if_neg hnot]

section
variable {op key : Nat} {rest : List Word} {i : Instr}

/-- A header with its operand words decodes to what its operation reads from them. -/
theorem decode_mkHeader {ops : List Word} (hh : CommandHeader op key) (hlen : ops.length + 1 = wordsOfOp op)
    (hdec : decodeOp op key ((ops ++ rest)[0]?.getD 0) ((ops ++ rest)[1]?.getD 0) = .ok i) :
    decode (mkHeader op key 0 :: ops ++ rest) = .command i rest := by
  refine decode_eq_command ?_ ((decodeWords_mkHeader hh _ _).trans hdec)
  obtain ⟨-, hlt, hkey, -⟩ := hh
  rw [headerOp_mkHeader op key 0 (by omega) hkey (by omega), hlen]

/-- A command without operand. -/
theorem decode_noOperand (hh : CommandHeader op key) (hlen : wordsOfOp op = 1)
    (hdec : ∀ w1 w2, decodeOp op key w1 w2 = .ok i) : decode ([mkHeader op key 0] ++ rest) = .command i rest :=
  decode_mkHeader hh hlen.symm (hdec _ _)

/-- A command with an int32 operand. -/
theorem decode_intOperand {v : Int} {f : Int → Instr} (hh : CommandHeader op key) (hlen : wordsOfOp op = 2)
    (hdec : ∀ w1 w2, decodeOp op key w1 w2 = .ok (f (operandInt w1))) (hv : fitsInt32 v = true) :
    decode ([mkHeader op key 0, wordOfInt v] ++ rest) = .command (f v) rest := by
  refine decode_mkHeader hh hlen.symm ((hdec (wordOfInt v) _).trans ?_)
  rw [operandInt_wordOfInt v (of_decide_eq_true hv)]

/-- A command with a uint32 operand. -/
theorem decode_natOperand {v : Nat} {f : Nat → Instr} (hh : CommandHeader op key) (hlen : wordsOfOp op = 2)
    (hdec : ∀ w1 w2, decodeOp op key w1 w2 = .ok (f (operandNat w1))) (hv : fitsUInt32 v = true) :
    decode ([mkHeader op key 0, wordOfNat v] ++ rest) = .command (f v) rest := by
  refine decode_mkHeader hh hlen.symm ((hdec (wordOfNat v) _).trans ?_)
  rw [operandNat_wordOfNat v (of_decide_eq_true hv)]

/-- A command with a uint64 operand, low word first. -/
theorem decode_timeOperand {t : Nat} {f : Nat → Instr} (hh : CommandHeader op key) (hlen : wordsOfOp op = 3)
    (hdec : ∀ w1 w2, decodeOp op key w1 w2 = .ok (f (operandTime w1 w2))) (ht : fitsUInt64 t = true) :
    decode (mkHeader op key 0 :: wordsOfTime t ++ rest) = .command (f t) rest := by
  refine decode_mkHeader hh hlen.symm ((hdec (BitVec.ofNat 32 t) (BitVec.ofNat 32 (t / 2 ^ 32))).trans ?_)
  rw [operandTime_wordsOfTime t (of_decide_eq_true ht)]

end

/-- A reserved operation carries its key and its RSV bits (R158 item 1). -/
theorem decodeWords_reserved {op key rsv : Nat} (hop : op = 0 ∨ 12 ≤ op ∧ op < 16) (hkey : key < 256)
    (hrsv : rsv < 1048576) (w1 w2 : Word) :
    decodeWords (mkHeader op key rsv) w1 w2 =
      .ok (if op = 0 then .reservedOp0 key rsv else .reservedOpcToOpf op key rsv) := by
  simp only [decodeWords, headerOp_mkHeader op key rsv (by omega) hkey hrsv,
    headerKey_mkHeader op key rsv (by omega) hkey hrsv, headerRsv_mkHeader op key rsv (by omega) hkey hrsv]
  rcases hop with rfl | ⟨hlo, hhi⟩
  · rfl
  · rw [if_neg (by omega), if_pos hlo, if_neg (by omega)]

/-- The keys VOLUME_0 to VOLUME_7 (R154). -/
theorem decodeOp_volumeN {n : Nat} (hn : n < 8) (w1 w2 : Word) :
    decodeOp 0x1 (0x10 + n) w1 w2 = .ok (.setAttrVolumeN n (operandInt w1)) ∧
      decodeOp 0x2 (0x10 + n) w1 w2 = .ok (.getAttrVolumeN n) := by
  interval_cases n <;> exact ⟨rfl, rfl⟩

/-! ### Every command -/

/-- The words of a well-formed command decode to it, whatever follows them (R150 to R156). -/
theorem decode_encode_append {i : Instr} (rest : List Word) (h : i.wellFormed = true) :
    decode (encode i ++ rest) = .command i rest := by
  cases i with
  | setAttrVolumeN n v =>
    simp only [Instr.wellFormed, fitsChannel, Bool.and_eq_true, decide_eq_true_eq] at h
    obtain ⟨hn, hv⟩ := h
    exact decode_intOperand ⟨by decide, by decide, by omega, nofun⟩ rfl (fun w1 w2 => (decodeOp_volumeN hn w1 w2).1) hv
  | getAttrVolumeN n =>
    have hn : n < 8 := of_decide_eq_true h
    exact decode_noOperand ⟨by decide, by decide, by omega, nofun⟩ rfl fun w1 w2 => (decodeOp_volumeN hn w1 w2).2
  | setAttrWaveform | setAttrDutyCycle | setAttrPeriod | setAttrPhase | setAttrVolume | setAttrSampleOffset
  | setAttrSampleEnd | setAttrSamplePeriod | setAttrSampleRepeat | setAttrSampleCallback | attach | boundaryReply =>
    exact decode_intOperand (by decide) rfl (fun _ _ => rfl) h
  | setPtrWaveform | setPtrSample | dataNotifyReplaced | dataNotifyDisposed =>
    exact decode_natOperand (by decide) rfl (fun _ _ => rfl) h
  | run | endChunk => exact decode_timeOperand (by decide) rfl (fun _ _ => rfl) h
  | reservedOp0 k r =>
    simp only [Instr.wellFormed, fitsKey, fitsRsv, Bool.and_eq_true, decide_eq_true_eq] at h
    obtain ⟨hk, hr⟩ := h
    refine decode_eq_command (ops := []) ?_ (decodeWords_reserved (.inl rfl) hk hr _ _)
    rw [headerOp_mkHeader 0x0 k r (by decide) hk hr]
    rfl
  | reservedOpcToOpf op k r =>
    obtain ⟨w, tail, hw, hlen⟩ := Laws.EncodedLength.reservedOpcToOpf op k r h
    simp only [Instr.wellFormed, fitsHighReservedOp, fitsKey, fitsRsv, Bool.and_eq_true, decide_eq_true_eq] at h
    obtain ⟨⟨hop, hk⟩, hr⟩ := h
    obtain ⟨rfl, rfl⟩ := List.cons.inj hw
    refine decode_eq_command (ops := []) hlen ((decodeWords_reserved (.inr (by omega)) hk hr _ _).trans ?_)
    rw [if_neg (by omega)]
  | _ => exact decode_noOperand (by decide) rfl fun _ _ => rfl

end Sys2Proof

namespace Sys2Proof.Machine

/-- A step performs the command that the words on the command port decode to (R120). -/
theorem step_of_decode {s : State} {i : Instr} {rest : List Word} (h : decode s.cmd = .command i rest) :
    step s = exec i { s with cmd := rest } := by
  simp only [step, h]

/-- Settles O4: a step performs what is decoded, and a command's own words decode to it. -/
theorem stepRunsDecodedCommand : Obligations.StepRunsDecodedCommand :=
  ⟨fun _ _ _ h => step_of_decode h, fun _ _ rest hwf hcmd => step_of_decode (hcmd ▸ decode_encode_append rest hwf)⟩

end Sys2Proof.Machine
end

section
/-! SUPPORT. The data memory under the oscillator's steps, which never write it (20_memory.md R105), and under the host's
changes (R106, R125). -/

namespace Sys2Proof.Machine

/-! ### The oscillator never writes data memory -/

/-- No command is listed to write data memory (R105). -/
theorem data_notMem_writes (i : Instr) : StateField.data ∉ writes i := by
  cases i <;> simp [writes, stepFields, clearFields, notifyFields]

/-- A step leaves data memory as it is, whatever stands on the command port (R105). -/
theorem step_data {s t : State} (hstep : step s = .next t) : t.data = s.data := by
  unfold step at hstep
  split at hstep
  case h_1 =>
    cases hstep
    rfl
  case h_2 i rest _ => exact commandsWriteOnlyTheirFields { s with cmd := rest } t i .data hstep (data_notMem_writes i)
  case h_3 why rest _ =>
    obtain ⟨es, hes⟩ := rejectIllegal_emits why { s with cmd := rest }
    rw [hes] at hstep
    cases hstep
    rfl

/-- Settles O58, from the frame of every command. -/
theorem stepNeverWritesDataMemory : Obligations.StepNeverWritesDataMemory := by
  intro s t hstep h a
  have hdata := step_data hstep
  exact ⟨by rw [State.dataByte, State.dataByte, hdata], by rw [dataShape, dataShape, hdata]⟩

/-! ### Another object of the same counts behind a handle -/

/-- A handle with a shape names an object of that shape. -/
theorem dataShape_eq_some {s : State} {h : Nat} {sh : Shape} (hs : dataShape s h = some sh) :
    ∃ o, findObject s.data h = some o ∧ o.shape = sh := Option.map_eq_some_iff.1 hs

/-- Every shape stays where the object put behind a live handle has the counts of the one before. -/
theorem dataShape_of_insertObject {s t : State} {h : Nat} {o : DataObject} (hs : dataShape s h = some o.shape)
    (ht : t.data = insertObject s.data h o) (g : Nat) : dataShape t g = dataShape s g := by
  by_cases hg : g = h
  · subst hg
    obtain ⟨o', hfind, -⟩ := dataShape_eq_some hs
    have hg0 : g ≠ 0 := (findObject_mem _ _ _ hfind).1
    rw [hs, dataShape, ht, findObject_insertObject_same _ _ _ hg0]
    rfl
  · rw [dataShape, dataShape, ht, findObject_insertObject_other _ _ _ _ hg]

section
variable {s : State} {h : Nat} {o : DataObject} (hs : dataShape s h = some o.shape)
include hs

/-- The object held for a handle is the one held before: the former one, where the handle names another now (R125). -/
theorem heldObject_provideObject (g : Nat) (held : Shape) (id : Identity) :
    heldObject (s.provideObject h o) g held (if g = h then id.provided (findObject s.data h) else id) =
      heldObject s g held id := by
  have hshape : dataShape (s.provideObject h o) g = dataShape s g := dataShape_of_insertObject hs rfl g
  unfold heldObject
  rw [hshape]
  by_cases hg : g = h
  · subst hg
    obtain ⟨o', hfind, -⟩ := dataShape_eq_some hs
    cases id <;> simp [Identity.provided, hfind]
  · have hfind : findObject (s.provideObject h o).data g = findObject s.data g :=
      findObject_insertObject_other _ _ _ _ hg
    rw [if_neg hg, hfind]

/-- A step reads the frame it would have read before. -/
theorem readFrame_provideObject (g : Nat) (held : Shape) (id : Identity) (i : Int) (k : Nat) :
    readFrame (s.provideObject h o) g held (if g = h then id.provided (findObject s.data h) else id) i k =
      readFrame s g held id i k := by
  unfold readFrame
  rw [heldObject_provideObject hs]
  rfl

/-- The custom table reads as before (R208). -/
theorem customAmp_provideObject : customAmp (s.provideObject h o) = customAmp s :=
  readFrame_provideObject hs s.wavePtr s.waveShape s.waveIdentity s.phase 0

/-- The sample plays as before (R304). -/
theorem sampleAmp_provideObject (c : Nat) : sampleAmp (s.provideObject h o) c = sampleAmp s c :=
  ite_congr rfl (fun _ => rfl) fun _ =>
    readFrame_provideObject hs s.samplePtr s.sampleShape s.sampleIdentity (asr s.pos s.cfg.frac)
      (c % s.sampleShape.channels)

/-- Every amplitude stays: CUSTOM and SAMPLE read the object held, the built-in waveforms no data memory (R125, R200). -/
theorem amplitude_provideObject (c : Nat) : amplitude (s.provideObject h o) c = amplitude s c := by
  have hwaveform : (s.provideObject h o).waveform = s.waveform := rfl
  unfold amplitude
  rw [hwaveform]
  cases s.waveform with
  | custom => exact customAmp_provideObject hs
  | sample => exact sampleAmp_provideObject hs c
  | square | triangle | sawtooth | sine | noise => rfl

end

/-! ### One frame of a live object changed -/

/-- The two bytes of a 16-bit value, the low one first (R103). -/
theorem extractLsb'_ofInt16 (v : Int) :
    (BitVec.ofInt 16 v).extractLsb' 0 8 = BitVec.ofInt 8 v ∧
      (BitVec.ofInt 16 v).extractLsb' 8 8 = BitVec.ofInt 8 (v / 256) := by
  constructor <;> apply BitVec.eq_of_toNat_eq <;>
    simp only [BitVec.extractLsb'_toNat, BitVec.toNat_ofInt, Nat.shiftRight_eq_div_pow] <;> norm_num <;> omega

/-- The bytes of a frame stored: the low byte at the frame's offset, the high byte after it (R103). -/
theorem readByte_writeObjectFrame (o : DataObject) (i k : Nat) (v : Int) (hb : Memory.wf o.bytes) (a : Nat) :
    readByte (writeObjectFrame o i k v).bytes a =
      if a = frameOffset o.channels i k then BitVec.ofInt 8 v
      else if a = frameOffset o.channels i k + 1 then BitVec.ofInt 8 (v / 256)
      else readByte o.bytes a := by
  obtain ⟨hlow, hhigh⟩ := extractLsb'_ofInt16 v
  simp only [writeObjectFrame, hlow, hhigh]
  have hsorted := (writeByte_wf o.bytes (frameOffset o.channels i k) (BitVec.ofInt 8 v) hb).1
  split
  case isTrue h => rw [h, readByte_writeByte_other _ _ _ _ hsorted (by omega), readByte_writeByte_same _ _ _ hb.1]
  case isFalse h =>
    split
    case isTrue h1 => rw [h1, readByte_writeByte_same _ _ _ hsorted]
    case isFalse h1 => rw [readByte_writeByte_other _ _ _ _ hsorted h1, readByte_writeByte_other _ _ _ _ hb.1 h]

/-- The object a live handle names keeps the contract of R101. -/
theorem findObject_wf {d : List DataEntry} {h : Nat} {o : DataObject} (hd : dataWf d) (hfind : findObject d h = some o) :
    (0 < h ∧ h < 2 ^ 32) ∧ o.wf := by
  obtain ⟨-, e, he, rfl, rfl⟩ := findObject_mem d h o hfind
  exact hd.2 e he

/-- The host's duty depends on the shapes the port answers, and on the handles with what was validated for them (R106). -/
theorem hostDuty_setData {s : State} {d : List DataEntry} (hshape : ∀ g, dataShape { s with data := d } g = dataShape s g)
    (hduty : s.HostDuty) : State.HostDuty { s with data := d } := by
  simpa only [State.HostDuty, hshape] using hduty

/-- Data memory that keeps the port's contract, with the other objects held as they are (R101, R102). -/
theorem setData_inv {s : State} {d : List DataEntry} (hI : s.Inv) (hd : dataWf d)
    (hframes : ∀ g j l w, dataFrame { s with data := d } g j l = some w → FrameValue s.cfg w) :
    State.Inv { s with data := d } := by
  obtain ⟨hC, hL, hW, hT, hP, hX, hB, ⟨-, -, hformer⟩⟩ := hI
  exact ⟨hC, hL, hW, hT, hP, hX, hB, hd, hframes, hformer⟩

section
variable {s : State} {o : DataObject} {h : Nat} (hfind : findObject s.data h = some o) (i k : Nat) (v : Int)
include hfind

/-- The host's change of a frame writes the object behind the handle, and no register (R106). -/
theorem changeFrame_eq :
    s.changeFrame h i k v = { s with data := insertObject s.data h (writeObjectFrame o i k v) } := by
  unfold State.changeFrame
  rw [hfind]

/-- The handle names the object written. -/
theorem findObject_changeFrame_same : findObject (s.changeFrame h i k v).data h = some (writeObjectFrame o i k v) := by
  rw [changeFrame_eq hfind]
  exact findObject_insertObject_same _ _ _ (findObject_mem _ _ _ hfind).1

/-- Every other handle names what it named. -/
theorem findObject_changeFrame_other {g : Nat} (hg : g ≠ h) :
    findObject (s.changeFrame h i k v).data g = findObject s.data g := by
  rw [changeFrame_eq hfind]
  exact findObject_insertObject_other _ _ _ _ hg

/-- Every shape stays. -/
theorem dataShape_changeFrame (g : Nat) : dataShape (s.changeFrame h i k v) g = dataShape s g := by
  have hs : dataShape s h = some (writeObjectFrame o i k v).shape := by rw [dataShape, hfind]; rfl
  exact dataShape_of_insertObject hs (by rw [changeFrame_eq hfind]) g

/-- The bytes of the handle's object: the frame's two bytes are new, the others as before (R103). -/
theorem dataByte_changeFrame (hb : Memory.wf o.bytes) (a : Nat) :
    (s.changeFrame h i k v).dataByte h a =
      if a = frameOffset o.channels i k then some (BitVec.ofInt 8 v)
      else if a = frameOffset o.channels i k + 1 then some (BitVec.ofInt 8 (v / 256))
      else s.dataByte h a := by
  rw [State.dataByte, State.dataByte, findObject_changeFrame_same hfind, hfind, Option.map_some, Option.map_some,
    readByte_writeObjectFrame o i k v hb, apply_ite some, apply_ite some]

/-- The frame changed reads the new value (R103). -/
theorem dataFrame_changeFrame_same (hb : Memory.wf o.bytes) (hi : i < o.frames) (hk : k < o.channels)
    (hv : -32768 ≤ v ∧ v ≤ 32767) : dataFrame (s.changeFrame h i k v) h i k = some v := by
  have hread : objectFrame (writeObjectFrame o i k v) i k = v :=
    objectFrame_writeObjectFrame_same o i k v hb (by norm_num; omega)
  simp [dataFrame, findObject_changeFrame_same hfind, hread, hi, hk]

/-- Every other frame of the object reads as before. -/
theorem dataFrame_changeFrame_other (hb : Memory.wf o.bytes) (hk : k < o.channels) {j l : Nat}
    (hne : (j, l) ≠ (i, k)) : dataFrame (s.changeFrame h i k v) h j l = dataFrame s h j l := by
  simp only [dataFrame, findObject_changeFrame_same hfind, hfind, writeObjectFrame_shape]
  by_cases hin : j < o.frames ∧ l < o.channels
  · rw [if_pos hin, if_pos hin, objectFrame_writeObjectFrame_other o i k j l v hb hk hin.2 hne]
  · rw [if_neg hin, if_neg hin]

/-- The host's duty stays (R106). -/
theorem changeFrame_hostDuty (hduty : s.HostDuty) : (s.changeFrame h i k v).HostDuty := by
  have hshape := dataShape_changeFrame hfind i k v
  rw [changeFrame_eq hfind] at hshape ⊢
  exact hostDuty_setData hshape hduty

/-- A frame value keeps a legal state legal (R102). -/
theorem changeFrame_inv (hi : i < o.frames) (hk : k < o.channels) (hv : -32768 ≤ v ∧ v ≤ 32767)
    (hframe : FrameValue s.cfg v) (hI : s.Inv) : (s.changeFrame h i k v).Inv := by
  have ⟨_, _, _, _, _, _, _, hd, hframes, _⟩ := hI
  have ⟨hh, hwf⟩ := findObject_wf hd hfind
  have ⟨_, _, hb, _⟩ := hwf
  have hframes' : ∀ g j l w, dataFrame (s.changeFrame h i k v) g j l = some w → FrameValue s.cfg w := by
    intro g j l w hw
    by_cases hg : g = h
    · subst hg
      by_cases hjl : (j, l) = (i, k)
      · obtain ⟨rfl, rfl⟩ := Prod.mk.inj hjl
        rw [dataFrame_changeFrame_same hfind _ _ v hb hi hk hv] at hw
        cases hw
        exact hframe
      · exact hframes g j l w (dataFrame_changeFrame_other hfind i k v hb hk hjl ▸ hw)
    · rw [dataFrame, findObject_changeFrame_other hfind i k v hg] at hw
      exact hframes g j l w hw
  rw [changeFrame_eq hfind] at hframes' ⊢
  exact setData_inv hI (insertObject_wf _ _ _ hd hh (writeObjectFrame_wf o i k v hwf hi hk)) hframes'

end

/-- Settles O59: the object held is the former one until it is validated anew; a frame written is read at once. -/
theorem hostFrameChangeIsSeen : Obligations.HostFrameChangeIsSeen := by
  refine ⟨fun s h c o hs => ⟨amplitude_provideObject hs c, (dataShape_of_insertObject hs rfl h).trans hs⟩, ?_⟩
  rintro s _ o h i k v hd hfind hi hk hlo hhi rfl
  obtain ⟨-, -, -, hb, -⟩ := findObject_wf hd hfind
  have hbyte := dataByte_changeFrame hfind i k v hb
  refine ⟨dataFrame_changeFrame_same hfind i k v hb hi hk ⟨hlo, hhi⟩,
    fun j l _ hne => dataFrame_changeFrame_other hfind i k v hb hk hne, fun g hg a => ?_, ⟨?_, ?_⟩, fun a h0 h1 => ?_,
    dataShape_changeFrame hfind i k v, changeFrame_hostDuty hfind i k v,
    changeFrame_inv hfind i k v hi hk ⟨hlo, hhi⟩⟩
  · rw [State.dataByte, State.dataByte, findObject_changeFrame_other hfind i k v hg]
  · exact (hbyte _).trans (if_pos rfl)
  · exact (hbyte _).trans ((if_neg (Nat.succ_ne_self _)).trans (if_pos rfl))
  · exact (hbyte a).trans ((if_neg h0).trans (if_neg h1))

end Sys2Proof.Machine
end

section
/-! SUPPORT. The sink (20_memory.md R110 to R113): its cells as sums over the transactions. -/

namespace Sys2Proof.Machine

/-- A transaction on another channel adds nothing (R112, R113). -/
theorem cellAddend_otherChannel (p : Config.Params) {tx : SinkTx} {c : Nat} (h : tx.channel ≠ c) (n : Nat) :
    cellAddend p tx c n = 0 := if_pos h

/-- A channel's own transactions make up its cells. -/
theorem sinkCell_channelOnly (p : Config.Params) (txs : List SinkTx) (c n : Nat) :
    sinkCell p (channelOnly c txs) c n = sinkCell p txs c n := by
  induction txs with
  | nil => rfl
  | cons tx txs ih =>
    unfold sinkCell channelOnly at ih ⊢
    by_cases h : tx.channel = c
    · simp [h, ih]
    · simp [h, ih, cellAddend_otherChannel p h]

/-- Addition forgets the order of the transactions (R111). -/
theorem sinkCell_perm (p : Config.Params) {xs ys : List SinkTx} (h : xs.Perm ys) (c n : Nat) :
    sinkCell p xs c n = sinkCell p ys c n := (h.map _).sum_eq

/-- One transaction more adds its part. -/
theorem sinkCell_snoc (p : Config.Params) (txs : List SinkTx) (tx : SinkTx) (c n : Nat) :
    sinkCell p (txs ++ [tx]) c n = sinkCell p txs c n + cellAddend p tx c n := by
  simp [sinkCell]

/-- R112: an AddPulse adds to the cells under its kernel, which starts at the whole sample of its time. -/
theorem cellAddend_addPulse (p : Config.Params) (c t n : Nat) (d : Int) :
    cellAddend p ⟨.addPulse, c, t, d⟩ c n =
      if t / 2 ^ p.frac ≤ n ∧ n < t / 2 ^ p.frac + Config.stepWidth then
        Config.kmul (Config.kernel (kernelPhase p t) (n - t / 2 ^ p.frac)) d
      else 0 := by
  have hspan : (t / 2 ^ p.frac ≤ n ∧ n - t / 2 ^ p.frac < Config.stepWidth) ↔
      (t / 2 ^ p.frac ≤ n ∧ n < t / 2 ^ p.frac + Config.stepWidth) :=
    and_congr_right fun hle => Nat.sub_lt_iff_lt_add' hle
  simp only [cellAddend, hspan]
  simp

/-- R113: an AddFrame adds its delta to one cell. -/
theorem cellAddend_addFrame (p : Config.Params) (c t n : Nat) (d : Int) :
    cellAddend p ⟨.addFrame, c, t, d⟩ c n = if n = t / 2 ^ p.frac then d else 0 := by
  simp [cellAddend]

/-- R112: the phase is one of the kernel's, as the fraction of a time is below one sample. -/
theorem kernelPhase_lt (p : Config.Params) (t : Nat) : kernelPhase p t < Config.stepUnit := by
  have hfrac : t % 2 ^ p.frac < 2 ^ p.frac := Nat.mod_lt _ (Nat.two_pow_pos _)
  exact Nat.div_lt_of_lt_mul (Nat.mul_lt_mul_of_pos_right hfrac (Nat.succ_pos _))

/-- R112: the last coefficient of a phase brings their sum to unity. -/
theorem kernel_sum (ph : Nat) : ((List.range Config.stepWidth).map (Config.kernel ph)).sum = Config.kernelUnity := by
  have hfree : (List.range Config.moreTaps).map (Config.kernel ph) =
      (List.range Config.moreTaps).map (Config.freeCoefficient ph) :=
    List.map_congr_left fun tap h => if_pos (List.mem_range.1 h)
  have hlast : Config.kernel ph Config.moreTaps =
      Config.kernelUnity - ((List.range Config.moreTaps).map (Config.freeCoefficient ph)).sum := if_neg (lt_irrefl _)
  rw [Config.stepWidth, List.range_succ, List.map_append, List.sum_append, hfree, List.map_singleton, List.sum_singleton,
    hlast, add_sub_cancel]

/-- Settles O60: the cells are sums over a channel's transactions, of what each kind adds. -/
theorem sinkDependsOnTheMultiset : Obligations.SinkDependsOnTheMultiset := by
  refine ⟨fun p xs ys c n h => ?_, fun p xs c t n d => ?_, kernelPhase_lt, kernel_sum, fun p xs c t n d => ?_⟩
  · calc sinkCell p xs c n = sinkCell p (channelOnly c xs) c n := (sinkCell_channelOnly p xs c n).symm
      _ = sinkCell p (channelOnly c ys) c n := sinkCell_perm p h c n
      _ = sinkCell p ys c n := sinkCell_channelOnly p ys c n
  · rw [sinkCell_snoc, cellAddend_addPulse]
    rfl
  · rw [sinkCell_snoc, cellAddend_addFrame]

end Sys2Proof.Machine
end

section
/-! SUPPORT. The converse of `decode_encode_append`: the words a command is decoded from are its encoding (30_encoding.md R151
to R156); and the encoding examples of R163. -/

namespace Sys2Proof

/-! ### Header fields and operands written back -/

/-- `OP` as a quotient. -/
theorem headerOp_eq (h : Word) : headerOp h = h.toNat / 2 ^ 28 := by
  have hlt : h.toNat < 2 ^ 32 := h.isLt
  rw [headerOp, BitVec.extractLsb'_toNat, Nat.shiftRight_eq_div_pow]
  omega

/-- `KEY` as a quotient and a remainder. -/
theorem headerKey_eq (h : Word) : headerKey h = h.toNat / 2 ^ 20 % 256 := by
  rw [headerKey, BitVec.extractLsb'_toNat, Nat.shiftRight_eq_div_pow]

/-- `RSV` as a remainder. -/
theorem headerRsv_eq (h : Word) : headerRsv h = h.toNat % 2 ^ 20 := by
  rw [headerRsv, BitVec.extractLsb'_toNat, Nat.shiftRight_zero]

/-- The three fields are the whole header (R151). -/
theorem mkHeader_fields (h : Word) : mkHeader (headerOp h) (headerKey h) (headerRsv h) = h := by
  obtain ⟨hop, hkey, hrsv⟩ := header_ranges h
  apply BitVec.eq_of_toNat_eq
  rw [mkHeader_toNat _ _ _ hop hkey hrsv, headerOp_eq, headerKey_eq, headerRsv_eq]
  omega

/-- `sext_32` drops no bit. -/
theorem wordOfInt_operandInt (w : Word) : wordOfInt (operandInt w) = w := BitVec.ofInt_toInt

/-- `zext_32` drops no bit. -/
theorem wordOfNat_operandNat (w : Word) : wordOfNat (operandNat w) = w := by
  rw [wordOfNat, operandNat, BitVec.ofNat_toNat, BitVec.setWidth_eq]

/-- `zext_64` drops no bit of its two words. -/
theorem wordsOfTime_operandTime (lo hi : Word) : wordsOfTime (operandTime lo hi) = [lo, hi] := by
  have hlo : lo.toNat < 2 ^ 32 := lo.isLt
  have hhi : hi.toNat < 2 ^ 32 := hi.isLt
  have hlow : BitVec.ofNat 32 (operandTime lo hi) = lo := by
    apply BitVec.eq_of_toNat_eq
    rw [BitVec.toNat_ofNat, operandTime]
    omega
  have hhigh : BitVec.ofNat 32 (operandTime lo hi / 2 ^ 32) = hi := by
    apply BitVec.eq_of_toNat_eq
    rw [BitVec.toNat_ofNat, operandTime]
    omega
  rw [wordsOfTime, hlow, hhigh]

theorem fitsInt32_operandInt (w : Word) : fitsInt32 (operandInt w) = true :=
  decide_eq_true ⟨BitVec.le_toInt w, BitVec.toInt_lt⟩

theorem fitsUInt32_operandNat (w : Word) : fitsUInt32 (operandNat w) = true := decide_eq_true w.isLt

theorem fitsUInt64_operandTime (lo hi : Word) : fitsUInt64 (operandTime lo hi) = true := by
  have hlo : lo.toNat < 2 ^ 32 := lo.isLt
  have hhi : hi.toNat < 2 ^ 32 := hi.isLt
  refine decide_eq_true ?_
  rw [operandTime]
  omega

/-! ### The decoders inverted -/

/-- The words `ws` are the encoding of the well-formed command `i`. -/
abbrev EncodedBy (i : Instr) (ws : List Word) : Prop := i.wellFormed = true ∧ encode i = ws

section
variable {op key : Nat} {w1 w2 : Word} {i : Instr}

theorem decodeSetAttr_encodedBy (h : decodeSetAttr key (operandInt w1) = .ok i) : EncodedBy i [mkHeader 0x1 key 0, w1] := by
  have hv := fitsInt32_operandInt w1
  have hw := wordOfInt_operandInt w1
  unfold decodeSetAttr at h
  split at h
  case h_15 =>
    split at h
    case isTrue hk =>
      cases h
      refine ⟨?_, ?_⟩
      · simp only [Instr.wellFormed, hv, Bool.and_true]
        exact decide_eq_true (by omega)
      · simp only [encode, hw, Nat.add_sub_cancel' hk.1]
    case isFalse => cases h
  all_goals cases h
  all_goals exact ⟨hv, by simp only [encode, hw]⟩

theorem decodeGetAttr_encodedBy (h : decodeGetAttr key = .ok i) : EncodedBy i [mkHeader 0x2 key 0] := by
  unfold decodeGetAttr at h
  split at h
  case h_15 =>
    split at h
    case isTrue hk =>
      cases h
      exact ⟨decide_eq_true (by omega), by simp only [encode, Nat.add_sub_cancel' hk.1]⟩
    case isFalse => cases h
  all_goals
    cases h
    exact ⟨rfl, rfl⟩

theorem decodeSetPtr_encodedBy (h : decodeSetPtr key (operandNat w1) = .ok i) : EncodedBy i [mkHeader 0x3 key 0, w1] := by
  have hv := fitsUInt32_operandNat w1
  have hw := wordOfNat_operandNat w1
  unfold decodeSetPtr at h
  split at h <;> cases h <;> exact ⟨hv, by simp only [encode, hw]⟩

theorem decodeGetPtr_encodedBy (h : decodeGetPtr key = .ok i) : EncodedBy i [mkHeader 0x4 key 0] := by
  unfold decodeGetPtr at h
  split at h <;> cases h <;> exact ⟨rfl, rfl⟩

theorem decodeNotify_encodedBy (h : decodeNotify key (operandNat w1) = .ok i) : EncodedBy i [mkHeader 0xA key 0, w1] := by
  have hv := fitsUInt32_operandNat w1
  have hw := wordOfNat_operandNat w1
  unfold decodeNotify at h
  split at h <;> cases h <;> exact ⟨hv, by simp only [encode, hw]⟩

/-- What an operation decodes to is encoded by its header and as many operand words as the operation has (R152). -/
theorem decodeOp_encodedBy (hh : CommandHeader op key) (h : decodeOp op key w1 w2 = .ok i) :
    EncodedBy i (mkHeader op key 0 :: [w1, w2].take (wordsOfOp op - 1)) := by
  obtain ⟨hlo, hhi, -, hkeyless⟩ := hh
  unfold decodeOp at h
  split at h
  case h_1 => exact decodeSetAttr_encodedBy h
  case h_2 => exact decodeGetAttr_encodedBy h
  case h_3 => exact decodeSetPtr_encodedBy h
  case h_4 => exact decodeGetPtr_encodedBy h
  case h_10 => exact decodeNotify_encodedBy h
  case h_12 => cases hlo
  case h_13 => interval_cases op <;> contradiction
  all_goals
    obtain rfl := hkeyless rfl
    cases h
  case h_5 | h_6 => exact ⟨fitsUInt64_operandTime w1 w2, by rw [encode, wordsOfTime_operandTime]; rfl⟩
  case h_7 | h_9 => exact ⟨rfl, rfl⟩
  case h_8 | h_11 => exact ⟨fitsInt32_operandInt w1, by rw [encode, wordOfInt_operandInt]; rfl⟩

end

/-! ### The header's checks, in the order of 60_exceptions.md R610 -/

section
variable {h : Word} {w1 w2 : Word}

/-- A reserved operation is one word long (R152). -/
theorem wordsOfOp_reserved {op : Nat} (hop : op = 0 ∨ 12 ≤ op) : wordsOfOp op = 1 := by
  unfold wordsOfOp
  split <;> omega

/-- R158 item 1: a reserved operation, whatever the rest of its header. -/
theorem decodeWords_reservedOp (hop : headerOp h = 0 ∨ 12 ≤ headerOp h) :
    decodeWords h w1 w2 = .ok (if headerOp h = 0 then .reservedOp0 (headerKey h) (headerRsv h)
      else .reservedOpcToOpf (headerOp h) (headerKey h) (headerRsv h)) := by
  obtain ⟨hlt, hkey, hrsv⟩ := header_ranges h
  have hdec := decodeWords_reserved (hop.imp_right fun hlo => ⟨hlo, hlt⟩) hkey hrsv w1 w2
  rwa [mkHeader_fields] at hdec

/-- R158 item 2: `RSV` is not 0. -/
theorem decodeWords_reservedBits (hlo : 1 ≤ headerOp h) (hhi : headerOp h < 12) (hrsv : headerRsv h ≠ 0) :
    decodeWords h w1 w2 = .error (.reservedBits (headerOp h)) := by
  rw [decodeWords, if_neg (by omega), if_neg (by omega), if_pos hrsv]

/-- R158 item 3: a key on a keyless operation. -/
theorem decodeWords_keyOnKeyless (hlo : 1 ≤ headerOp h) (hhi : headerOp h < 12) (hrsv : headerRsv h = 0)
    (hkeyless : isKeyless (headerOp h) = true) (hkey : headerKey h ≠ 0) :
    decodeWords h w1 w2 = .error (.keyOnKeyless (headerOp h)) := by
  rw [decodeWords, if_neg (by omega), if_neg (by omega), if_neg (not_not.2 hrsv), if_pos ⟨hkeyless, hkey⟩]

/-- A header with nothing wrong. -/
theorem decodeWords_commandHeader (hh : CommandHeader (headerOp h) (headerKey h)) (hrsv : headerRsv h = 0) :
    decodeWords h w1 w2 = decodeOp (headerOp h) (headerKey h) w1 w2 := by
  have hdec := decodeWords_mkHeader hh w1 w2
  rwa [← hrsv, mkHeader_fields] at hdec

/-- A reserved operation keeps its header as it came. -/
theorem reservedOp_encodedBy (hop : headerOp h = 0 ∨ 12 ≤ headerOp h) :
    EncodedBy (if headerOp h = 0 then .reservedOp0 (headerKey h) (headerRsv h)
      else .reservedOpcToOpf (headerOp h) (headerKey h) (headerRsv h)) [h] := by
  obtain ⟨hlt, hkey, hrsv⟩ := header_ranges h
  have hfields := mkHeader_fields h
  have hfits : (fitsKey (headerKey h) && fitsRsv (headerRsv h)) = true := by simp [fitsKey, fitsRsv, hkey, hrsv]
  split
  case isTrue h0 =>
    rw [h0] at hfields
    exact ⟨hfits, by rw [encode, hfields]⟩
  case isFalse h0 =>
    have hhigh : fitsHighReservedOp (headerOp h) = true := decide_eq_true (by omega)
    exact ⟨by rw [Instr.wellFormed, hhigh, Bool.true_and, hfits], by rw [encode, hfields]⟩

/-- A command is encoded by its header and as many operand words as the operation has. -/
theorem decodeWords_encodedBy {i : Instr} (hdec : decodeWords h w1 w2 = .ok i) :
    EncodedBy i (h :: [w1, w2].take (wordsOfOp (headerOp h) - 1)) := by
  by_cases hop : headerOp h = 0 ∨ 12 ≤ headerOp h
  · rw [decodeWords_reservedOp hop] at hdec
    cases hdec
    rw [wordsOfOp_reserved hop]
    exact reservedOp_encodedBy hop
  have hlo : 1 ≤ headerOp h := by omega
  have hhi : headerOp h < 12 := by omega
  by_cases hrsv : headerRsv h = 0
  · by_cases hkey : isKeyless (headerOp h) = true ∧ headerKey h ≠ 0
    · rw [decodeWords_keyOnKeyless hlo hhi hrsv hkey.1 hkey.2] at hdec
      cases hdec
    · have hh : CommandHeader (headerOp h) (headerKey h) :=
        ⟨hlo, hhi, (header_ranges h).2.1, fun hk => by_contra fun h0 => hkey ⟨hk, h0⟩⟩
      rw [decodeWords_commandHeader hh hrsv] at hdec
      have hfields := mkHeader_fields h
      rw [hrsv] at hfields
      simpa only [hfields] using decodeOp_encodedBy hh hdec
  · rw [decodeWords_reservedBits hlo hhi hrsv] at hdec
    cases hdec

end

/-! ### One command at the front of a stream -/

/-- No command is longer than three words (R152). -/
theorem wordsOfOp_range (op : Nat) : 1 ≤ wordsOfOp op ∧ wordsOfOp op ≤ 3 := by
  unfold wordsOfOp
  split <;> omega

/-- The words a decoded command came from (R153). -/
theorem decode_command_inv {ws rest : List Word} {i : Instr} (hdec : decode ws = .command i rest) :
    ∃ h tail, ws = h :: tail ∧ wordsOfOp (headerOp h) - 1 ≤ tail.length ∧
      decodeWords h (tail[0]?.getD 0) (tail[1]?.getD 0) = .ok i ∧ tail.drop (wordsOfOp (headerOp h) - 1) = rest := by
  cases ws with
  | nil => cases hdec
  | cons h tail =>
    simp only [decode] at hdec
    split at hdec
    case isTrue => cases hdec
    case isFalse hlen =>
      split at hdec
      case h_1 j hj =>
        cases hdec
        exact ⟨h, tail, rfl, not_lt.1 hlen, hj, rfl⟩
      case h_2 => cases hdec

/-- The operand words a command reads are the first of the stream. -/
theorem take_operands {tail : List Word} {n : Nat} (hn : n ≤ 2) (hlen : n ≤ tail.length) :
    [tail[0]?.getD 0, tail[1]?.getD 0].take n = tail.take n := by
  match n, tail with
  | 0, _ => rfl
  | 1, _ :: _ => rfl
  | 2, _ :: _ :: _ => rfl

end Sys2Proof

namespace Sys2Proof.Machine

/-- Settles O1: a header with its operands, command by command. -/
theorem decodeInvertsEncode : Obligations.DecodeInvertsEncode := fun _ rest h => decode_encode_append rest h

/-- Settles O2: the header's fields and the operands, written back, are the words read. -/
theorem encodeInvertsDecode : Obligations.EncodeInvertsDecode := by
  intro ws i rest hdec
  obtain ⟨h, tail, rfl, hlen, hwords, rfl⟩ := decode_command_inv hdec
  obtain ⟨hwf, henc⟩ := decodeWords_encodedBy hwords
  have hrange := wordsOfOp_range (headerOp h)
  refine ⟨hwf, ?_⟩
  rw [henc, take_operands (by omega) hlen, List.cons_append, List.take_append_drop]

/-- Settles O3: closed words and texts, evaluated. -/
theorem specExampleWordsDecode : Obligations.SpecExampleWordsDecode := by
  unfold Obligations.SpecExampleWordsDecode
  decide

end Sys2Proof.Machine
end

section
/-! SUPPORT. What a step does with the words at the front of the command port that are no command: it waits for a whole one
(60_exceptions.md R619), and answers an illegal encoding (30_encoding.md R158). -/

namespace Sys2Proof

/-! ### The front of the stream -/

section
variable {h : Word} {tail : List Word}

/-- Fewer words than the operation has (R153). -/
theorem decode_incomplete (hlen : tail.length + 1 < wordsOfOp (headerOp h)) : decode (h :: tail) = .incomplete := by
  rw [decode, if_pos (by omega)]

/-- An illegal encoding is taken with the words its operation has (R153). -/
theorem decode_illegal {n : Nat} {why : Illegal} (hlen : n + 1 = wordsOfOp (headerOp h)) (hn : n ≤ tail.length)
    (hdec : ∀ w1 w2, decodeWords h w1 w2 = .error why) : decode (h :: tail) = .illegal why (tail.drop n) := by
  have hdrop : wordsOfOp (headerOp h) - 1 = n := by omega
  rw [decode, hdrop, if_neg (by omega), hdec]

/-- A reserved operation is taken alone (R152). -/
theorem decode_reservedOp (hop : headerOp h = 0 ∨ 12 ≤ headerOp h) :
    decode (h :: tail) = .command (if headerOp h = 0 then .reservedOp0 (headerKey h) (headerRsv h)
      else .reservedOpcToOpf (headerOp h) (headerKey h) (headerRsv h)) tail :=
  decode_eq_command (ops := []) (wordsOfOp_reserved hop).symm (decodeWords_reservedOp hop)

end

/-- An operation that has a key, on a header with `RSV` 0. -/
theorem decodeWords_keyed {h w1 w2 : Word} {op : Nat} (hop : headerOp h = op)
    (hkeyed : 1 ≤ op ∧ op < 12 ∧ isKeyless op = false) (hrsv : headerRsv h = 0) :
    decodeWords h w1 w2 = decodeOp op (headerKey h) w1 w2 := by
  subst hop
  obtain ⟨hlo, hhi, hnot⟩ := hkeyed
  exact decodeWords_commandHeader
    ⟨hlo, hhi, (header_ranges h).2.1, fun hk => absurd hk (by simp [hnot])⟩ hrsv

/-! ### Keys that are refused (R154, R155) -/

/-- The keys of R154. -/
def attributeKeys : List Nat :=
  [1, 2, 3, 4, 5, 6, 7, 8, 0x10, 0x11, 0x12, 0x13, 0x14, 0x15, 0x16, 0x17] ++ [0x20, 0x21, 0x22, 0x23, 0x24, 0x25]

section
variable {key : Nat}

/-- The VOLUME_n keys are listed. -/
theorem volumeKey_mem (h : 0x10 ≤ key ∧ key ≤ 0x17) : key ∈ attributeKeys := by
  obtain ⟨hlo, hhi⟩ := h
  interval_cases key <;> decide

theorem decodeGetAttr_unlisted (h : key ∉ attributeKeys) : decodeGetAttr key = .error (.unlistedKey 0x2) := by
  unfold decodeGetAttr
  split
  case h_15 => exact if_neg fun hk => h (volumeKey_mem hk)
  all_goals exact absurd (by decide) h

theorem decodeSetAttr_unlisted (v : Int) (h : key ∉ attributeKeys) : decodeSetAttr key v = .error (.unlistedKey 0x1) := by
  unfold decodeSetAttr
  split
  case h_15 => exact if_neg fun hk => h (volumeKey_mem hk)
  all_goals exact absurd (by decide) h

theorem decodeSetAttr_readOnly (v : Int) (h : key ∈ [5, 7, 8, 0x25]) : decodeSetAttr key v = .error .readOnlyKey := by
  fin_cases h <;> rfl

theorem decodeSetPtr_unlisted (handle : Nat) (h : key ∉ [1, 2]) : decodeSetPtr key handle = .error (.unlistedKey 0x3) := by
  unfold decodeSetPtr
  split
  case h_3 => rfl
  all_goals exact absurd (by decide) h

theorem decodeGetPtr_unlisted (h : key ∉ [1, 2]) : decodeGetPtr key = .error (.unlistedKey 0x4) := by
  unfold decodeGetPtr
  split
  case h_3 => rfl
  all_goals exact absurd (by decide) h

theorem decodeNotify_unlisted (handle : Nat) (h : key ∉ [1, 2]) : decodeNotify key handle = .error (.unlistedKey 0xA) := by
  unfold decodeNotify
  split
  case h_3 => rfl
  all_goals exact absurd (by decide) h

end

end Sys2Proof

namespace Sys2Proof.Machine

/-! ### Steps -/

/-- With no whole command on the port nothing changes (log 4). -/
theorem step_of_incomplete {s : State} (h : decode s.cmd = .incomplete) : step s = .next s := by
  simp only [step, h]

/-- An illegal encoding is answered by `rejectIllegal` (R158). -/
theorem step_of_illegal {s : State} {why : Illegal} {rest : List Word} (h : decode s.cmd = .illegal why rest) :
    step s = rejectIllegal why { s with cmd := rest } := by
  simp only [step, h]

/-- Settles O5: what does not decode yet leaves the state as it is. -/
theorem stepWaitsForAWholeCommand : Obligations.StepWaitsForAWholeCommand := by
  refine ⟨by decide, fun s h => step_of_incomplete (by rw [h, decode]), step_of_incomplete rfl, fun s h tail hcmd hlen => ?_⟩
  rw [← headerOp_eq] at hlen
  exact step_of_incomplete (hcmd ▸ decode_incomplete hlen)

/-! ### The answers to illegal encodings (R158, R601) -/

theorem exec_reservedOp0 (key rsv : Nat) (s : State) :
    exec (.reservedOp0 key rsv) s = .next (s.emit [.response 0xFFFFFFFC none]) := rfl

theorem exec_reservedOpcToOpf (op key rsv : Nat) (s : State) :
    exec (.reservedOpcToOpf op key rsv) s = .next (s.emit [.response 0xFFFFFFFC none]) := rfl

theorem rejectIllegal_reservedBits (op : Nat) (s : State) :
    rejectIllegal (.reservedBits op) s =
      .next (s.emit [.response 0xFFFFFFFC (if op = 2 ∨ op = 4 then some 0 else none)]) := by
  have hvalue : hasValueWord op = true ↔ op = 2 ∨ op = 4 := by simp [hasValueWord]
  simp only [rejectIllegal, hvalue]
  split <;> rfl

theorem rejectIllegal_keyOnKeyless (op : Nat) (s : State) :
    rejectIllegal (.keyOnKeyless op) s = .next (s.emit [.response 0xFFFFFFFC none]) := rfl

theorem rejectIllegal_unlistedKey_get {op : Nat} (s : State) (h : hasValueWord op = true) :
    rejectIllegal (.unlistedKey op) s = .next (s.emit [.response 0xFFFFFFFE (some 0)]) := by
  rw [rejectIllegal, if_pos h]
  rfl

section
variable {s : State} (hp : s.pending = false)
include hp

theorem rejectIllegal_unlistedKey_set {op : Nat} (h : hasValueWord op = false) :
    rejectIllegal (.unlistedKey op) s = .next (s.emit [.response 0xFFFFFFFE none]) := by
  rw [rejectIllegal, if_neg (by simp [h]), if_neg (by simp [hp])]
  rfl

theorem rejectIllegal_readOnlyKey :
    rejectIllegal .readOnlyKey s = .next (s.emit [.response 0xFFFFFFFE none]) := by
  rw [rejectIllegal, if_neg (by simp [hp])]
  rfl

end

/-- The operations of R158 item 3 are keyless, and none answers a value word. -/
theorem isKeyless_of_mem {op : Nat} (h : op ∈ [5, 6, 7, 8, 9, 11]) :
    isKeyless op = true ∧ 1 ≤ op ∧ op ≤ 11 ∧ ¬ (op = 2 ∨ op = 4) := by
  fin_cases h <;> decide

section
variable {s : State} {h : Word} {tail : List Word} {n : Nat}

/-- R158 item 1: a reserved operation on the port. -/
theorem step_reservedOp (hcmd : s.cmd = h :: tail) (hop : headerOp h = 0 ∨ 12 ≤ headerOp h) :
    step s = .next (State.emit { s with cmd := tail } [.response 0xFFFFFFFC none]) := by
  rw [step_of_decode (hcmd ▸ decode_reservedOp hop)]
  split
  · exact exec_reservedOp0 _ _ _
  · exact exec_reservedOpcToOpf _ _ _ _

variable (hcmd : s.cmd = h :: tail) (hlen : n + 1 = wordsOfOp (headerOp h)) (hn : n ≤ tail.length)
include hcmd hlen hn

/-- An illegal encoding on the port is answered after the words its operation has (R153). -/
theorem step_of_decodeWords_error {why : Illegal} (hdec : ∀ w1 w2, decodeWords h w1 w2 = .error why) :
    step s = rejectIllegal why { s with cmd := tail.drop n } :=
  step_of_illegal (hcmd ▸ decode_illegal hlen hn hdec)

/-- R158 item 2. -/
theorem step_reservedBits (hlo : 1 ≤ headerOp h) (hhi : headerOp h ≤ 11) (hrsv : headerRsv h ≠ 0) :
    step s = .next (State.emit { s with cmd := tail.drop n }
      [.response 0xFFFFFFFC (if headerOp h = 2 ∨ headerOp h = 4 then some 0 else none)]) := by
  have hdec : ∀ w1 w2, decodeWords h w1 w2 = .error (.reservedBits (headerOp h)) := fun _ _ =>
    decodeWords_reservedBits hlo (by omega) hrsv
  rw [step_of_decodeWords_error hcmd hlen hn hdec, rejectIllegal_reservedBits]

/-- R158 item 3, whose answer is that of item 2 where both apply. -/
theorem step_keyOnKeyless (hop : headerOp h ∈ [5, 6, 7, 8, 9, 11]) (hkey : headerKey h ≠ 0) :
    step s = .next (State.emit { s with cmd := tail.drop n } [.response 0xFFFFFFFC none]) := by
  obtain ⟨hkeyless, hlo, hhi, hget⟩ := isKeyless_of_mem hop
  by_cases hrsv : headerRsv h = 0
  · have hdec : ∀ w1 w2, decodeWords h w1 w2 = .error (.keyOnKeyless (headerOp h)) := fun _ _ =>
      decodeWords_keyOnKeyless hlo (by omega) hrsv hkeyless hkey
    rw [step_of_decodeWords_error hcmd hlen hn hdec, rejectIllegal_keyOnKeyless]
  · rw [step_reservedBits hcmd hlen hn hlo hhi hrsv, if_neg hget]

/-- R158 item 4 on GET_ATTR and GET_PTR. -/
theorem step_unlistedKey_get (hrsv : headerRsv h = 0)
    (hkey : headerOp h = 2 ∧ headerKey h ∉ attributeKeys ∨ headerOp h = 4 ∧ headerKey h ∉ [1, 2]) :
    step s = .next (State.emit { s with cmd := tail.drop n } [.response 0xFFFFFFFE (some 0)]) := by
  obtain ⟨op, hvalue, hdec⟩ : ∃ op, hasValueWord op = true ∧ ∀ w1 w2, decodeWords h w1 w2 = .error (.unlistedKey op) := by
    rcases hkey with ⟨hop, hkey⟩ | ⟨hop, hkey⟩
    · exact ⟨2, rfl, fun _ _ => (decodeWords_keyed hop (by decide) hrsv).trans (decodeGetAttr_unlisted hkey)⟩
    · exact ⟨4, rfl, fun _ _ => (decodeWords_keyed hop (by decide) hrsv).trans (decodeGetPtr_unlisted hkey)⟩
  rw [step_of_decodeWords_error hcmd hlen hn hdec, rejectIllegal_unlistedKey_get _ hvalue]

/-- R158 items 4 and 5 on SET_ATTR, SET_PTR and DATA_NOTIFY, while no reply is waited for (R610). -/
theorem step_refusedKey_set (hp : s.pending = false) (hrsv : headerRsv h = 0)
    (hkey : headerOp h = 1 ∧ (headerKey h ∉ attributeKeys ∨ headerKey h ∈ [5, 7, 8, 0x25]) ∨
      (headerOp h = 3 ∨ headerOp h = 10) ∧ headerKey h ∉ [1, 2]) :
    step s = .next (State.emit { s with cmd := tail.drop n } [.response 0xFFFFFFFE none]) := by
  have hunlisted : ∀ op, hasValueWord op = false → (∀ w1 w2, decodeWords h w1 w2 = .error (.unlistedKey op)) →
      step s = .next (State.emit { s with cmd := tail.drop n } [.response 0xFFFFFFFE none]) := fun op hvalue hdec =>
    (step_of_decodeWords_error hcmd hlen hn hdec).trans
      (rejectIllegal_unlistedKey_set (s := { s with cmd := tail.drop n }) hp hvalue)
  rcases hkey with ⟨hop, hkey | hkey⟩ | ⟨hop | hop, hkey⟩
  · exact hunlisted 1 rfl fun _ _ => (decodeWords_keyed hop (by decide) hrsv).trans (decodeSetAttr_unlisted _ hkey)
  · refine (step_of_decodeWords_error hcmd hlen hn fun _ _ => ?_).trans (rejectIllegal_readOnlyKey hp)
    exact (decodeWords_keyed hop (by decide) hrsv).trans (decodeSetAttr_readOnly _ hkey)
  · exact hunlisted 3 rfl fun _ _ => (decodeWords_keyed hop (by decide) hrsv).trans (decodeSetPtr_unlisted _ hkey)
  · exact hunlisted 10 rfl fun _ _ => (decodeWords_keyed hop (by decide) hrsv).trans (decodeNotify_unlisted _ hkey)

end

/-- Settles O6: each item of R158 decodes to its refusal, or to a reserved operation, and each refusal has its answer. -/
theorem illegalEncodingsAnswer : Obligations.IllegalEncodingsAnswer := by
  refine ⟨exec_reservedOp0, exec_reservedOpcToOpf, ?_⟩
  intro s h tail hcmd op key rsv n hop hkey hrsv hlen hn
  rw [← headerOp_eq] at hop
  rw [← headerKey_eq] at hkey
  rw [← headerRsv_eq] at hrsv
  subst hop hkey hrsv
  refine ⟨step_reservedOp hcmd, step_reservedBits hcmd hlen hn, step_keyOnKeyless hcmd hlen hn, ?_⟩
  rintro _ rfl
  exact ⟨step_unlistedKey_get hcmd hlen hn, step_refusedKey_set hcmd hlen hn⟩

end Sys2Proof.Machine
end

section
/-! SUPPORT. The amplitude functions (40_phase_advance.md R200 to R208, 42_sample_playback.md R304): what each waveform's
amplitude is, that it is a frame value, and that a legal state has one on every channel. -/

namespace Sys2Proof.Machine

/-! ### The dispatch (R200) -/

section
variable {s : State} (c : Nat)

theorem amplitude_square (h : s.waveform = .square) : amplitude s c = .ok (squareAmp s) := by
  unfold amplitude; rw [h]

theorem amplitude_triangle (h : s.waveform = .triangle) : amplitude s c = .ok (triangleAmp s) := by
  unfold amplitude; rw [h]

theorem amplitude_sawtooth (h : s.waveform = .sawtooth) : amplitude s c = .ok (sawtoothAmp s) := by
  unfold amplitude; rw [h]

theorem amplitude_sine (h : s.waveform = .sine) : amplitude s c = .ok (sineAmp s) := by
  unfold amplitude; rw [h]

theorem amplitude_noise (h : s.waveform = .noise) : amplitude s c = .ok (noiseAmp s) := by
  unfold amplitude; rw [h]

theorem amplitude_custom (h : s.waveform = .custom) : amplitude s c = customAmp s := by
  unfold amplitude; rw [h]

theorem amplitude_sample (h : s.waveform = .sample) : amplitude s c = sampleAmp s c := by
  unfold amplitude; rw [h]

/-- Only SAMPLE looks at the channel. -/
theorem amplitude_channel_independent (h : s.waveform ≠ .sample) (d : Nat) : amplitude s d = amplitude s c := by
  unfold amplitude
  cases hw : s.waveform with
  | sample => exact absurd hw h
  | square | triangle | sawtooth | sine | noise | custom => rfl

end

/-- R104: while the host keeps its duty no amplitude of a legal state reads outside its object. -/
theorem amplitude_ok {s : State} (hI : s.Inv) (hd : s.HostDuty) (hp : s.pending = false) (c : Nat) :
    ∃ a, amplitude s c = .ok a := by
  cases h : amplitude s c with
  | ok a => exact ⟨a, rfl⟩
  | error f => exact absurd hd (amplitude_error s c f hI hp h).2

/-- Settles O34: `amplitude_range`, and the two lemmas above. -/
theorem amplitudeIsFrameValue : Obligations.AmplitudeIsFrameValue := by
  refine ⟨fun s c a hc hD hp ha => ?_, fun s c hI hd hp => amplitude_ok hI hd hp c⟩
  obtain ⟨hlo, hhi⟩ := amplitude_range s c a hc hD hp ha
  exact ⟨hlo, hhi, fun hw d => (amplitude_channel_independent c hw d).trans ha⟩

/-! ### The printed tables -/

/-- R203: the default table. -/
theorem triangleAmp_default {s : State} (hc : s.cfg = Config.default) (hp : s.phase < 32) :
    triangleAmp s =
      ([-32767, -28398, -24029, -19660, -15291, -10922, -6553, -2184, 2184, 6553, 10922, 15291, 19660, 24029] ++
        [28398, 32767, 32767, 28398, 24029, 19660, 15291, 10922, 6553, 2184, -2184, -6553, -10922, -15291] ++
        [-19660, -24029, -28398, -32767] : List Int).getD s.phase 0 := by
  unfold triangleAmp
  rw [hc]
  generalize s.phase = n at hp
  revert n
  decide

/-- R204: the default table. -/
theorem sawtoothAmp_default {s : State} (hc : s.cfg = Config.default) (hp : s.phase < 7) :
    sawtoothAmp s = ([-32767, -21844, -10922, 0, 10922, 21844, 32767] : List Int).getD s.phase 0 := by
  unfold sawtoothAmp
  rw [hc]
  generalize s.phase = n at hp
  revert n
  decide

/-- Settles O32: each waveform's amplitude, and for the three tables the entry at the phase. -/
theorem builtInAmplitudes : Obligations.BuiltInAmplitudes := by
  intro s c
  refine ⟨amplitude_square c, fun hc hw hp => ?_, fun hc hw hp => ?_, fun hc hw _ => ?_, amplitude_noise c,
    fun htable hw hp => ⟨sineAmp s, amplitude_sine c hw, htable s.phase hp⟩⟩
  · rw [amplitude_triangle c hw, triangleAmp_default hc hp]
  · rw [amplitude_sawtooth c hw, sawtoothAmp_default hc hp]
  · rw [amplitude_sine c hw, sineAmp, hc]
    rfl

/-! ### Frames of Data objects -/

section
variable {s : State} {h : Nat} {held : Shape}

/-- The object validated is still behind the handle: its frame is read. -/
theorem readFrame_same {i k : Nat} {v : Int} (hs : dataShape s h = some held) (hv : dataFrame s h i k = some v) :
    readFrame s h held .same i k = .ok v := by
  unfold dataFrame at hv
  unfold readFrame heldObject
  rw [if_pos hs]
  cases hf : findObject s.data h with
  | none => rw [hf] at hv; cases hv
  | some o =>
    simp only [hf, Option.ite_none_right_eq_some, Option.some.injEq] at hv
    obtain ⟨hrange, rfl⟩ := hv
    simp [hrange]

/-- R125: another object stands behind the handle, not notified: the former one's frame is read (log 22). -/
theorem readFrame_replaced {o : DataObject} {i k : Nat} (hs : dataShape s h = some held) (hi : i < o.frames)
    (hk : k < o.channels) : readFrame s h held (.replaced o) i k = .ok (objectFrame o i k) := by
  simp [readFrame, heldObject, hs, hi, hk]

end

/-- R306: the whole samples of a position are its floor. -/
theorem asr_eq_of_bounds {x i : Int} {k : Nat} (hlo : i * 2 ^ k ≤ x) (hhi : x < (i + 1) * 2 ^ k) : asr x k = i :=
  (Int.ediv_eq_iff_of_pos (by positivity)).2 ⟨hlo, by linarith⟩

/-- R304: halted playback is silent. -/
theorem sampleAmp_halted {s : State} (h : s.halted = true) (c : Nat) : sampleAmp s c = .ok 0 := if_pos h

/-- R304: playback that is not halted reads the frame at the position. -/
theorem sampleAmp_playing {s : State} {i : Nat} (h : s.halted = false) (hlo : (i : Int) * 2 ^ s.cfg.frac ≤ s.pos)
    (hhi : s.pos < ((i : Int) + 1) * 2 ^ s.cfg.frac) (c : Nat) :
    sampleAmp s c = readFrame s s.samplePtr s.sampleShape s.sampleIdentity i (c % s.sampleShape.channels) := by
  rw [sampleAmp, if_neg (by simp [h]), asr_eq_of_bounds hlo hhi]

/-- Settles O33: CUSTOM and SAMPLE are reads of a frame, of the object behind the handle or of the former one. -/
theorem dataAmplitudes : Obligations.DataAmplitudes := by
  intro s c
  refine ⟨fun hw hptr hd => ?_, fun hw hh => ?_, fun hw hh hptr hd i hlo hhi sh hsh => ?_⟩
  · have hshape := (hd.1 hptr).1
    rw [amplitude_custom c hw, customAmp]
    refine ⟨fun hid v hv => ?_, fun o hid hi hk => ?_⟩ <;> rw [hid]
    · exact readFrame_same hshape hv
    · exact readFrame_replaced hshape hi hk
  · rw [amplitude_sample c hw, sampleAmp_halted hh]
  · have hshape := (hd.2 hptr).1
    obtain rfl : s.sampleShape = sh := Option.some.inj (hshape.symm.trans hsh)
    rw [amplitude_sample c hw, sampleAmp_playing hh hlo hhi]
    refine ⟨fun hid v hv => ?_, fun o hid hi hk => ?_⟩ <;> rw [hid]
    · exact readFrame_same hshape hv
    · exact readFrame_replaced hshape hi hk

end Sys2Proof.Machine
end

section
/-! SUPPORT. The default sine table (40_phase_advance.md R205, R206). The first quarter is checked against the sine through
its square, `sin x ^ 2 = (1 - cos (2 x)) / 2`, with three cosines bounded by rationals; the symmetries of the sine and of the
table give the other three quarters. -/

namespace Sys2Proof.Machine

/-- An entry closer to the formula's value at index `i` than half, so that no tie is left to round. -/
abbrev SineEntry (e : Int) (i : Nat) : Prop := |(e : ℝ) - 32767 * Real.sin (i * (Real.pi / 16))| < 1 / 2

/-! ### The first quarter -/

/-- A square root lies between the roots of squares on both sides of its argument. -/
theorem sqrt_bounds {x l u : ℝ} (hl : 0 ≤ l) (hu : 0 < u) (h : l ^ 2 < x ∧ x < u ^ 2) : l < √x ∧ √x < u :=
  ⟨(Real.lt_sqrt hl).2 h.1, (Real.sqrt_lt' hu).2 h.2⟩

theorem sqrt_two_bounds : 1.41421356 < √(2 : ℝ) ∧ √(2 : ℝ) < 1.41421357 :=
  sqrt_bounds (by norm_num) (by norm_num) (by norm_num)

theorem cos_pi_div_four_bounds : Real.cos (Real.pi / 4) ∈ Set.Icc 0.70710678 0.70710679 := by
  obtain ⟨hlo, hhi⟩ := sqrt_two_bounds
  rw [Real.cos_pi_div_four]
  constructor <;> linarith

theorem cos_pi_div_eight_bounds : Real.cos (Real.pi / 8) ∈ Set.Icc 0.9238795 0.9238796 := by
  obtain ⟨hlo, hhi⟩ := sqrt_two_bounds
  have h := sqrt_bounds (x := 2 + √2) (l := 1.847759) (u := 1.8477592) (by norm_num) (by norm_num)
    ⟨by linarith, by linarith⟩
  rw [Real.cos_pi_div_eight]
  constructor <;> linarith

theorem sin_pi_div_eight_bounds : Real.sin (Real.pi / 8) ∈ Set.Icc 0.3826834 0.3826835 := by
  obtain ⟨hlo, hhi⟩ := sqrt_two_bounds
  have h := sqrt_bounds (x := 2 - √2) (l := 0.7653668) (u := 0.765367) (by norm_num) (by norm_num)
    ⟨by linarith, by linarith⟩
  rw [Real.sin_pi_div_eight]
  constructor <;> linarith

/-- The bounds of the opposite of a number. -/
theorem neg_mem_bounds {c l u : ℝ} (h : c ∈ Set.Icc l u) : -c ∈ Set.Icc (-u) (-l) := ⟨neg_le_neg h.2, neg_le_neg h.1⟩

/-- An entry of the first half, from bounds of the cosine of twice its angle. -/
theorem sineEntry_of_cos {e : Int} {i : Nat} {c l u : ℝ} (hi : i ≤ 16) (he : 1 ≤ e)
    (hcos : Real.cos (i * (Real.pi / 8)) = c) (hc : c ∈ Set.Icc l u)
    (h : ((e : ℝ) - 1 / 2) ^ 2 < 32767 ^ 2 * ((1 - u) / 2) ∧ 32767 ^ 2 * ((1 - l) / 2) < ((e : ℝ) + 1 / 2) ^ 2) :
    SineEntry e i := by
  have he' : (1 : ℝ) ≤ e := by exact_mod_cast he
  have hi' : (i : ℝ) ≤ 16 := by exact_mod_cast hi
  have hsin : 0 ≤ Real.sin (i * (Real.pi / 16)) :=
    Real.sin_nonneg_of_nonneg_of_le_pi (by positivity) (by nlinarith [Real.pi_pos])
  have hsq : (32767 * Real.sin (i * (Real.pi / 16))) ^ 2 = 32767 ^ 2 * ((1 - c) / 2) := by
    rw [mul_pow, Real.sin_sq_eq_half_sub, show 2 * ((i : ℝ) * (Real.pi / 16)) = i * (Real.pi / 8) by ring, hcos]
    ring
  obtain ⟨hlo, hhi⟩ := hc
  have hbelow : (e : ℝ) - 1 / 2 < 32767 * Real.sin (i * (Real.pi / 16)) :=
    lt_of_pow_lt_pow_left₀ 2 (by positivity) (by linarith)
  have habove : 32767 * Real.sin (i * (Real.pi / 16)) < (e : ℝ) + 1 / 2 :=
    lt_of_pow_lt_pow_left₀ 2 (by positivity) (by linarith)
  rw [SineEntry, abs_lt]
  constructor <;> linarith

/-- The cosines of the multiples of an eighth of a half turn, by those of the first quarter turn. -/
theorem cos_eighths :
    Real.cos ((1 : ℕ) * (Real.pi / 8)) = Real.cos (Real.pi / 8) ∧
      Real.cos ((2 : ℕ) * (Real.pi / 8)) = Real.cos (Real.pi / 4) ∧
      Real.cos ((3 : ℕ) * (Real.pi / 8)) = Real.sin (Real.pi / 8) ∧
      Real.cos ((4 : ℕ) * (Real.pi / 8)) = 0 ∧
      Real.cos ((5 : ℕ) * (Real.pi / 8)) = -Real.sin (Real.pi / 8) ∧
      Real.cos ((6 : ℕ) * (Real.pi / 8)) = -Real.cos (Real.pi / 4) ∧
      Real.cos ((7 : ℕ) * (Real.pi / 8)) = -Real.cos (Real.pi / 8) ∧
      Real.cos ((8 : ℕ) * (Real.pi / 8)) = -1 := by
  rw [← Real.cos_pi_div_two_sub, ← Real.cos_pi_sub, ← Real.cos_pi_sub, ← Real.cos_pi_sub, ← Real.cos_pi,
    ← Real.cos_pi_div_two]
  refine ⟨?_, ?_, ?_, ?_, ?_, ?_, ?_, ?_⟩ <;> congr 1 <;> push_cast <;> ring

/-- R206's entries 0 to 8. -/
theorem sineEntry_first_quarter {i : Nat} (hi : i ≤ 8) : SineEntry (Config.defaultSineTable.getD i 0) i := by
  obtain ⟨h1, h2, h3, h4, h5, h6, h7, h8⟩ := cos_eighths
  have c8 := cos_pi_div_eight_bounds
  have c4 := cos_pi_div_four_bounds
  have s8 := sin_pi_div_eight_bounds
  interval_cases i
  · simp [SineEntry, Config.defaultSineTable]
  · exact sineEntry_of_cos (e := 6393) (by decide) (by decide) h1 c8 (by norm_num)
  · exact sineEntry_of_cos (e := 12539) (by decide) (by decide) h2 c4 (by norm_num)
  · exact sineEntry_of_cos (e := 18204) (by decide) (by decide) h3 s8 (by norm_num)
  · exact sineEntry_of_cos (e := 23170) (by decide) (by decide) h4 (Set.left_mem_Icc.2 le_rfl) (by norm_num)
  · exact sineEntry_of_cos (e := 27245) (by decide) (by decide) h5 (neg_mem_bounds s8) (by norm_num)
  · exact sineEntry_of_cos (e := 30273) (by decide) (by decide) h6 (neg_mem_bounds c4) (by norm_num)
  · exact sineEntry_of_cos (e := 32137) (by decide) (by decide) h7 (neg_mem_bounds c8) (by norm_num)
  · exact sineEntry_of_cos (e := 32767) (by decide) (by decide) h8 (Set.left_mem_Icc.2 le_rfl) (by norm_num)

/-! ### The whole turn -/

/-- The sine is symmetric about a quarter turn. -/
theorem SineEntry.reflect {e : Int} {i : Nat} (h : SineEntry e i) (hi : i ≤ 16) : SineEntry e (16 - i) := by
  rw [SineEntry] at h ⊢
  rwa [show ((16 - i : ℕ) : ℝ) * (Real.pi / 16) = Real.pi - i * (Real.pi / 16) by push_cast [hi]; ring, Real.sin_pi_sub]

/-- The sine of half a turn more is the opposite. -/
theorem SineEntry.halfTurn {e : Int} {i : Nat} (h : SineEntry e i) : SineEntry (-e) (i + 16) := by
  rw [SineEntry] at h ⊢
  rw [show ((i + 16 : ℕ) : ℝ) * (Real.pi / 16) = i * (Real.pi / 16) + Real.pi by push_cast; ring, Real.sin_add_pi]
  rw [← abs_neg]
  convert h using 2
  push_cast
  ring

/-- The table has the symmetries of the sine. -/
theorem defaultSineTable_symmetric :
    (∀ i ≤ 8, Config.defaultSineTable.getD (16 - i) 0 = Config.defaultSineTable.getD i 0) ∧
      ∀ i < 16, Config.defaultSineTable.getD (i + 16) 0 = -Config.defaultSineTable.getD i 0 := by
  decide

/-- R206's entries 0 to 15, the second quarter by reflection. -/
theorem sineEntry_first_half {i : Nat} (hi : i < 16) : SineEntry (Config.defaultSineTable.getD i 0) i := by
  by_cases h8 : i ≤ 8
  · exact sineEntry_first_quarter h8
  · have h := (sineEntry_first_quarter (i := 16 - i) (by omega)).reflect (by omega)
    rwa [← defaultSineTable_symmetric.1 (16 - i) (by omega), Nat.sub_sub_self (by omega)] at h

/-- R206's 32 entries, the second half by half a turn. -/
theorem sineEntry_default {i : Nat} (hi : i < 32) : SineEntry (Config.defaultSineTable.getD i 0) i := by
  by_cases h16 : i < 16
  · exact sineEntry_first_half h16
  · have h := (sineEntry_first_half (i := i - 16) (by omega)).halfTurn
    rwa [← defaultSineTable_symmetric.2 (i - 16) (by omega), Nat.sub_add_cancel (by omega)] at h

/-- Settles O35: every entry is nearer than half, so that none is a tie. -/
theorem defaultSineTableIsTheFormula : Obligations.DefaultSineTableIsTheFormula := by
  refine ⟨rfl, fun i hi x hx => ?_⟩
  have hangle : 2 * Real.pi * i / (Config.default.nSine : ℝ) = i * (Real.pi / 16) := by
    rw [show Config.default.nSine = 32 from rfl]; push_cast; ring
  have hlt : |((Config.default.sineTable.getD i 0 : ℤ) : ℝ) - x| < 1 / 2 := by
    rw [hx, hangle]
    exact_mod_cast sineEntry_default hi
  exact ⟨hlt.le, fun htie => absurd htie hlt.ne⟩

end Sys2Proof.Machine
end

section
/-! SUPPORT. The noise register of 15 bits (40_phase_advance.md R210, R211). A step is linear over XOR, and 15 steps act as
one step XOR none; squaring that relation gives the state after many steps from the states after few. By it the seed's period
is 32767, and so the seed's course passes through every state but 0. -/

namespace Sys2Proof.Machine

/-! ### One step, bit by bit -/

/-- R210: a step moves every bit one place down, and the feedback into the top place. -/
theorem lfsrNext_testBit {bits r : Nat} (hb : 1 ≤ bits) (hr : r < 2 ^ bits) (i : Nat) :
    (lfsrNext bits r).testBit i = if i = bits - 1 then (r.testBit 0 ^^ r.testBit 1) else r.testBit (i + 1) := by
  simp only [lfsrNext, Nat.testBit_or, Nat.testBit_shiftRight, Nat.testBit_shiftLeft, Nat.testBit_bool_toNat,
    Nat.add_comm 1 i]
  by_cases htop : i = bits - 1
  · have hout : r.testBit (i + 1) = false := Nat.testBit_lt_two_pow (by rwa [htop, Nat.sub_add_cancel hb])
    rw [hout, if_pos htop, htop]
    simp
  · have hlow : ¬ (i ≥ bits - 1 ∧ i - (bits - 1) = 0) := by omega
    rw [if_neg htop]
    have hfeed : (decide (i ≥ bits - 1) && (decide (i - (bits - 1) = 0) && (r.testBit 0 ^^ r.testBit 1))) = false := by
      rw [← Bool.and_assoc, ← Bool.decide_and, decide_eq_false hlow, Bool.false_and]
    rw [hfeed, Bool.or_false]

/-- A step is linear over XOR. -/
theorem lfsrNext_xor {bits a b : Nat} (h1 : 1 ≤ bits) (ha : a < 2 ^ bits) (hb : b < 2 ^ bits) :
    lfsrNext bits (a ^^^ b) = lfsrNext bits a ^^^ lfsrNext bits b := by
  refine Nat.eq_of_testBit_eq fun i => ?_
  rw [Nat.testBit_xor, lfsrNext_testBit h1 (Nat.xor_lt_two_pow ha hb), lfsrNext_testBit h1 ha, lfsrNext_testBit h1 hb]
  simp only [Nat.testBit_xor]
  split
  · rw [Bool.xor_assoc, Bool.xor_assoc, Bool.xor_left_comm (b.testBit 0)]
  · rfl

/-- A register stays as wide as it is. -/
theorem lfsrNext_lt {r : Nat} (hr : r < 2 ^ 15) : lfsrNext 15 r < 2 ^ 15 := by
  by_cases h0 : r = 0
  · subst h0; decide
  · exact (lfsrNext_spec 15 r (by decide) ⟨h0, hr⟩).2

/-- A step loses nothing. -/
theorem lfsrNext_injective {a b : Nat} (ha : a < 2 ^ 15) (hb : b < 2 ^ 15) (h : lfsrNext 15 a = lfsrNext 15 b) : a = b := by
  by_contra hne
  have hx : a ^^^ b ≠ 0 := fun h0 => hne (Nat.xor_eq_zero_iff.1 h0)
  refine (lfsrNext_spec 15 _ (by decide) ⟨hx, Nat.xor_lt_two_pow ha hb⟩).1 ?_
  rw [lfsrNext_xor (by decide) ha hb, h, Nat.xor_self]

/-! ### Many steps -/

section
variable {r : Nat} (hr : r < 2 ^ 15)
include hr

/-- No number of steps leaves the 15 bits. -/
theorem lfsrNext_iterate_lt (n : Nat) : (lfsrNext 15)^[n] r < 2 ^ 15 := by
  induction n with
  | zero => exact hr
  | succ n ih => rw [Function.iterate_succ_apply']; exact lfsrNext_lt ih

/-- Any number of steps is linear over XOR. -/
theorem lfsrNext_iterate_xor {q : Nat} (hq : q < 2 ^ 15) (n : Nat) :
    (lfsrNext 15)^[n] (r ^^^ q) = (lfsrNext 15)^[n] r ^^^ (lfsrNext 15)^[n] q := by
  induction n with
  | zero => rfl
  | succ n ih =>
    simp only [Function.iterate_succ_apply', ih]
    exact lfsrNext_xor (by decide) (lfsrNext_iterate_lt hr n) (lfsrNext_iterate_lt hq n)

/-- A bit of the register is its low bit as many steps later. -/
theorem lfsrNext_iterate_testBit {i : Nat} (hi : i < 15) (n : Nat) :
    ((lfsrNext 15)^[n] r).testBit i = ((lfsrNext 15)^[n + i] r).testBit 0 := by
  induction i generalizing n with
  | zero => rfl
  | succ i ih =>
    have hnext := lfsrNext_testBit (by decide) (lfsrNext_iterate_lt hr n) i
    rw [if_neg (by omega)] at hnext
    rw [← hnext, ← Function.iterate_succ_apply' (lfsrNext 15), ih (by omega), Nat.succ_add_eq_add_succ]

/-- R210's feedback: a low bit is the XOR of the low bits 15 and 14 steps before. -/
theorem lfsrNext_iterate_feedback (n : Nat) :
    ((lfsrNext 15)^[n + 15] r).testBit 0 =
      (((lfsrNext 15)^[n] r).testBit 0 ^^ ((lfsrNext 15)^[n + 1] r).testBit 0) := by
  have hone := lfsrNext_iterate_testBit hr (i := 1) (by decide) n
  have htop := lfsrNext_iterate_testBit hr (i := 14) (by decide) (n + 1)
  rw [← htop, ← hone, Function.iterate_succ_apply', lfsrNext_testBit (by decide) (lfsrNext_iterate_lt hr n), if_pos rfl]

end

/-- `n` steps act as `a` steps XOR `b` steps. -/
abbrev StepsSplit (n a b : Nat) : Prop :=
  ∀ r < 2 ^ 15, (lfsrNext 15)^[n] r = (lfsrNext 15)^[a] r ^^^ (lfsrNext 15)^[b] r

/-- The register's characteristic polynomial, from its feedback. -/
theorem stepsSplit_fifteen : StepsSplit 15 1 0 := by
  intro r hr
  refine Nat.eq_of_testBit_eq fun i => ?_
  rw [Nat.testBit_xor]
  by_cases hi : i < 15
  · simp only [lfsrNext_iterate_testBit hr hi]
    rw [Nat.add_comm 15, lfsrNext_iterate_feedback hr, Nat.add_comm 1, Nat.zero_add, Bool.xor_comm]
  · have hout : ∀ q < 2 ^ 15, q.testBit i = false := fun q hq =>
      Nat.testBit_lt_two_pow (hq.trans_le (Nat.pow_le_pow_right two_pos (by omega)))
    rw [hout _ (lfsrNext_iterate_lt hr 15), hout _ (lfsrNext_iterate_lt hr 1), hout _ (lfsrNext_iterate_lt hr 0)]
    rfl

/-- As many steps more in every term. -/
theorem StepsSplit.shift {n a b : Nat} (h : StepsSplit n a b) (k : Nat) : StepsSplit (n + k) (a + k) (b + k) := by
  intro r hr
  simp only [Function.iterate_add_apply]
  exact h _ (lfsrNext_iterate_lt hr k)

/-- Twice the steps: the mixed terms of the square cancel. -/
theorem StepsSplit.double {n a b : Nat} (h : StepsSplit n a b) : StepsSplit (n + n) (a + a) (b + b) := by
  intro r hr
  have ha := lfsrNext_iterate_lt hr a
  have hb := lfsrNext_iterate_lt hr b
  rw [Function.iterate_add_apply, h _ (lfsrNext_iterate_lt hr n), h r hr, lfsrNext_iterate_xor ha hb,
    lfsrNext_iterate_xor ha hb]
  simp only [← Function.iterate_add_apply, Nat.add_comm b a]
  rw [Nat.xor_assoc, Nat.xor_xor_cancel_left]

/-- Steps doubled `k` times. -/
theorem StepsSplit.doubles {n a b : Nat} (h : StepsSplit n a b) (k : Nat) :
    StepsSplit (2 ^ k * n) (2 ^ k * a) (2 ^ k * b) := by
  induction k with
  | zero => simpa using h
  | succ k ih =>
    have key : ∀ m, 2 ^ (k + 1) * m = 2 ^ k * m + 2 ^ k * m := fun m => by ring
    simpa only [key] using ih.double

/-- The same with no term of 0 steps, so that doubling it is of use. -/
theorem stepsSplit_sixteen : StepsSplit 16 2 1 := stepsSplit_fifteen.shift 1

/-- 16 steps squared four times over: what 32 steps and 16 add up to. -/
theorem stepsSplit_256 : StepsSplit 256 4 1 := by
  have h256 : StepsSplit 256 32 16 := stepsSplit_sixteen.doubles 4
  have h32 : StepsSplit 32 4 2 := stepsSplit_sixteen.doubles 1
  intro r hr
  rw [h256 r hr, h32 r hr, stepsSplit_sixteen r hr, Nat.xor_assoc, Nat.xor_xor_cancel_left]

/-- 2^15 steps are one step. -/
theorem lfsrNext_iterate_two_pow {r : Nat} (hr : r < 2 ^ 15) : (lfsrNext 15)^[32768] r = lfsrNext 15 r := by
  have h512 : StepsSplit 512 8 2 := stepsSplit_256.doubles 1
  have h128 : StepsSplit 128 16 8 := stepsSplit_sixteen.doubles 3
  calc (lfsrNext 15)^[32768] r
      = (lfsrNext 15)^[512] r ^^^ (lfsrNext 15)^[128] r := stepsSplit_256.doubles 7 r hr
    _ = lfsrNext 15 r := by
        rw [h512 r hr, h128 r hr, stepsSplit_sixteen r hr]
        rw [Nat.xor_comm _ ((lfsrNext 15)^[8] r), ← Nat.xor_assoc ((lfsrNext 15)^[8] r), Nat.xor_xor_cancel_left]
        rfl

/-- R211: every state comes back after 32767 steps. -/
theorem lfsrNext_isPeriodicPt {r : Nat} (hr : r < 2 ^ 15) : Function.IsPeriodicPt (lfsrNext 15) 32767 r :=
  lfsrNext_injective (lfsrNext_iterate_lt hr _) hr <| by
    rw [← Function.iterate_succ_apply' (lfsrNext 15)]; exact lfsrNext_iterate_two_pow hr

/-! ### The period of the seed -/

/-- A period that no prime of it divides out is the least. -/
theorem minimalPeriod_eq_of_prime_quotients {α : Type} {f : α → α} {x : α} {n : Nat}
    (hx : Function.IsPeriodicPt f n x) (hp : ∀ p, p.Prime → p ∣ n → ¬ Function.IsPeriodicPt f (n / p) x) :
    Function.minimalPeriod f x = n := by
  obtain ⟨k, hk⟩ := hx.minimalPeriod_dvd
  have hk1 : k = 1 := by
    by_contra hne
    obtain ⟨p, hprime, m, rfl⟩ := Nat.exists_prime_and_dvd hne
    refine hp p hprime ⟨Function.minimalPeriod f x * m, by rw [hk]; ring⟩ ?_
    rw [hk, show Function.minimalPeriod f x * (p * m) = p * (m * Function.minimalPeriod f x) by ring,
      Nat.mul_div_cancel_left _ hprime.pos]
    exact (Function.isPeriodicPt_minimalPeriod f x).const_mul m
  rw [hk, hk1, mul_one]

/-- 32767 = 7 * 31 * 151. -/
theorem prime_dvd_32767 {p : Nat} (hp : p.Prime) (h : p ∣ 32767) : p = 7 ∨ p = 31 ∨ p = 151 := by
  rw [show 32767 = 7 * (31 * 151) from rfl] at h
  rcases hp.dvd_mul.1 h with h | h
  · exact .inl ((Nat.prime_dvd_prime_iff_eq hp (by norm_num)).1 h)
  · rcases hp.dvd_mul.1 h with h | h
    · exact .inr (.inl ((Nat.prime_dvd_prime_iff_eq hp (by norm_num)).1 h))
    · exact .inr (.inr ((Nat.prime_dvd_prime_iff_eq hp (by norm_num)).1 h))

/-- The seed's state after more steps, from its state `q` after `k`. -/
theorem StepsSplit.from_seed {n a b k q : Nat} (h : StepsSplit n a b) (hk : (lfsrNext 15)^[k] 1 = q) :
    (lfsrNext 15)^[n + k] 1 = (lfsrNext 15)^[a] q ^^^ (lfsrNext 15)^[b] q := by
  have hq : q < 2 ^ 15 := hk ▸ lfsrNext_iterate_lt (by decide) k
  rw [Function.iterate_add_apply, hk, h q hq]

/-- None of the quotients of 32767 by a prime is a period of the seed. -/
theorem seed_not_periodic {d : Nat} (hd : d = 4681 ∨ d = 1057 ∨ d = 217) :
    ¬ Function.IsPeriodicPt (lfsrNext 15) d 1 := by
  have h64 : StepsSplit 64 8 4 := stepsSplit_sixteen.doubles 2
  unfold Function.IsPeriodicPt Function.IsFixedPt
  rcases hd with rfl | rfl | rfl
  · have h512 : StepsSplit 512 8 2 := stepsSplit_256.doubles 1
    have h4096 : StepsSplit 4096 64 16 := stepsSplit_256.doubles 4
    have at73 : (lfsrNext 15)^[64 + 9] 1 = 12292 := (h64.from_seed (q := 64) (by decide)).trans (by decide)
    have at585 : (lfsrNext 15)^[512 + 73] 1 = 20273 := (h512.from_seed at73).trans (by decide)
    rw [show 4681 = 4096 + 585 from rfl, h4096.from_seed at585, h64 20273 (by decide)]
    decide
  · have h1024 : StepsSplit 1024 16 4 := stepsSplit_256.doubles 2
    rw [show 1057 = 1024 + 33 from rfl, h1024.from_seed (q := 5120) (by decide)]
    decide
  · have h128 : StepsSplit 128 16 8 := stepsSplit_sixteen.doubles 3
    have at89 : (lfsrNext 15)^[64 + 25] 1 = 21507 := (h64.from_seed (q := 48) (by decide)).trans (by decide)
    rw [show 217 = 128 + 89 from rfl, h128.from_seed at89]
    decide

/-- R211, for the seed. -/
theorem minimalPeriod_seed : Function.minimalPeriod (lfsrNext 15) 1 = 32767 := by
  refine minimalPeriod_eq_of_prime_quotients (lfsrNext_isPeriodicPt (by decide)) fun p hp hdvd => ?_
  apply seed_not_periodic
  rcases prime_dvd_32767 hp hdvd with rfl | rfl | rfl <;> simp

/-! ### The course of every state -/

/-- R211: no number of steps reaches 0. -/
theorem lfsrNext_iterate_pos {r : Nat} (h0 : 0 < r) (hr : r < 2 ^ 15) (n : Nat) : 0 < (lfsrNext 15)^[n] r := by
  induction n with
  | zero => exact h0
  | succ n ih =>
    rw [Function.iterate_succ_apply']
    exact Nat.pos_of_ne_zero (lfsrNext_spec 15 _ (by decide) ⟨ih.ne', lfsrNext_iterate_lt hr n⟩).1

/-- A state of period 32767 passes through all the states but 0, for there are no more than these. -/
theorem exists_iterate_eq {r : Nat} (h0 : 0 < r) (hr : r < 2 ^ 15) (hper : Function.minimalPeriod (lfsrNext 15) r = 32767)
    {q : Nat} (hq0 : 0 < q) (hq : q < 2 ^ 15) : ∃ n < 32767, (lfsrNext 15)^[n] r = q := by
  have hsub : (Finset.range 32767).image (fun n => (lfsrNext 15)^[n] r) ⊆ Finset.Ioo 0 (2 ^ 15) := by
    intro x hx
    obtain ⟨n, -, rfl⟩ := Finset.mem_image.1 hx
    exact Finset.mem_Ioo.2 ⟨lfsrNext_iterate_pos h0 hr n, lfsrNext_iterate_lt hr n⟩
  have hinj : Set.InjOn (fun n => (lfsrNext 15)^[n] r) (Finset.range 32767) := by
    simpa [hper, Set.Iio] using Function.iterate_injOn_Iio_minimalPeriod (f := lfsrNext 15) (x := r)
  have hcard : (Finset.Ioo 0 (2 ^ 15)).card ≤ ((Finset.range 32767).image fun n => (lfsrNext 15)^[n] r).card := by
    rw [Finset.card_image_of_injOn hinj, Finset.card_range, Nat.card_Ioo]
    decide
  have hmem : q ∈ (Finset.range 32767).image fun n => (lfsrNext 15)^[n] r := by
    rw [Finset.eq_of_subset_of_card_le hsub hcard]
    exact Finset.mem_Ioo.2 ⟨hq0, hq⟩
  obtain ⟨n, hn, rfl⟩ := Finset.mem_image.1 hmem
  exact ⟨n, Finset.mem_range.1 hn, rfl⟩

/-- Every state but 0 is on the seed's course, and so has its period. -/
theorem minimalPeriod_lfsrNext {r : Nat} (h0 : 0 < r) (hr : r < 2 ^ 15) :
    Function.minimalPeriod (lfsrNext 15) r = 32767 := by
  obtain ⟨n, -, rfl⟩ := exists_iterate_eq Nat.one_pos (by decide) minimalPeriod_seed h0 hr
  rw [Function.minimalPeriod_apply_iterate ⟨32767, by decide, lfsrNext_isPeriodicPt (by decide)⟩, minimalPeriod_seed]

/-- Settles O36, by the period of every state. -/
theorem lfsrFullPeriod : Obligations.LfsrFullPeriod := by
  refine ⟨fun r h0 hr => ?_, by decide, by decide⟩
  have hper := minimalPeriod_lfsrNext h0 hr
  refine ⟨lfsrNext_isPeriodicPt hr, fun n hn hlt => ?_,
    fun n => ⟨lfsrNext_iterate_pos h0 hr n, lfsrNext_iterate_lt hr n⟩, fun q => exists_iterate_eq h0 hr hper⟩
  exact Function.not_isPeriodicPt_of_pos_of_lt_minimalPeriod hn.ne' (by rwa [hper])

end Sys2Proof.Machine
end


section
/-! SUPPORT. The course of a run that no boundary request interrupts (40_phase_advance.md R213, 41_pulse_generation.md R251 to
R257): the loop is `k` single steps, and what it records is what the single steps' amplitudes are; and from these records
each channel's transactions. -/

namespace Sys2Proof.Machine

/-! ### The states of the course -/

/-- A single step keeps the attributes and the ports, and adds `period` to `time` (R212, R251). -/
theorem advanced_same (s : State) :
    SameAttributes s (advanced s) ∧ SamePorts s (advanced s) ∧ (advanced s).time = s.time + s.period := by
  unfold advanced
  cases hv : advance s with
  | done t =>
    obtain ⟨hA, hS, ht⟩ := advance_done_same s t hv
    exact ⟨hA.trans' (by constructor <;> rfl), hS.trans' (by constructor <;> rfl), by simp [ht, hA.period]⟩
  | request t e =>
    obtain ⟨-, -, -, rfl, -, -⟩ := advance_request s t e hv
    exact ⟨by constructor <;> rfl, by constructor <;> rfl, rfl⟩

/-- So do `j` single steps. -/
theorem stepState_same (j : Nat) (s : State) :
    SameAttributes s (stepState j s) ∧ SamePorts s (stepState j s) ∧ (stepState j s).time = s.time + j * s.period := by
  induction j generalizing s with
  | zero => exact ⟨.rfl' s, .rfl' s, by simp [stepState]⟩
  | succ j ih =>
    obtain ⟨hA, hS, ht⟩ := advanced_same s
    obtain ⟨hA', hS', ht'⟩ := ih (advanced s)
    refine ⟨hA.trans' hA', hS.trans' hS', ?_⟩
    rw [stepState, ht', ht, hA.period]
    ring

/-- No request in `k + 1` steps: none now, and none in `k` steps from the next state. -/
theorem State.NoRequestBefore.succ {s : State} {k : Nat} (h : s.NoRequestBefore (k + 1)) :
    (∀ t e, advance s ≠ .request t e) ∧ (advanced s).NoRequestBefore k :=
  ⟨h 0 (Nat.succ_pos k), fun j hj => h (j + 1) (Nat.succ_lt_succ hj)⟩

/-! ### The records of the course -/

/-- The record of a later step is that step's record from the next state. -/
theorem recordAt_succ (s : State) (j : Nat) : recordAt s (j + 1) = recordAt (advanced s) j := by
  obtain ⟨hA, -, ht⟩ := advanced_same s
  unfold recordAt
  rw [hA.nch, ht, hA.period]
  congr 1
  ring

/-- One more step at the front. -/
theorem recordsBefore_succ (s : State) (k : Nat) :
    recordsBefore s (k + 1) = recordAt s 0 :: recordsBefore (advanced s) k := by
  simp only [recordsBefore, List.range_succ_eq_map, List.map_cons, List.map_map]
  congr 1
  exact List.map_congr_left fun j _ => recordAt_succ s j

/-- One more step at the end. -/
theorem recordsBefore_snoc (s : State) (k : Nat) : recordsBefore s (k + 1) = recordsBefore s k ++ [recordAt s k] := by
  simp [recordsBefore, List.range_succ]

/-- The amplitudes of a step's record are those of its channels. -/
theorem recordAt_amps {s : State} {c j : Nat} {a : Int} (hc : c < s.nch) (ha : amplitude (stepState j s) c = .ok a) :
    (recordAt s j).amps[c]? = some a := by
  simp [recordAt, hc, ha]

/-- The amplitudes taken by a step are those its record holds. -/
theorem amplitudesBelow_eq_record {s : State} {as : List Int} (h : amplitudesBelow s s.nch = .ok as) :
    as = (recordAt s 0).amps := by
  obtain ⟨hlen, hamp⟩ := amplitudesBelow_ok s s.nch as h
  refine List.ext_getElem? fun c => ?_
  by_cases hc : c < s.nch
  · rw [recordAt_amps (j := 0) hc (hamp c hc), List.getElem?_eq_getElem (by omega)]
    simp
  · rw [List.getElem?_eq_none (by omega), List.getElem?_eq_none (by simp [recordAt]; omega)]

/-! ### The loop -/

/-- Every channel has an amplitude in a legal state under the host's duty (R104). -/
theorem amplitudesBelow_total {s : State} (hI : s.Inv) (hd : s.HostDuty) (hp : s.pending = false) (n : Nat) :
    ∃ as, amplitudesBelow s n = .ok as := by
  cases h : amplitudesBelow s n with
  | ok as => exact ⟨as, rfl⟩
  | error f =>
    obtain ⟨c, -, herr⟩ := amplitudesBelow_error s n f h
    obtain ⟨a, hok⟩ := amplitude_ok hI hd hp c
    rw [hok] at herr
    cases herr

section
variable {s : State} (hI : s.Inv) (hd : s.HostDuty) (hp : s.pending = false)
include hI hd hp

/-- A step that raises no request is the single step, and it records what `recordAt` says. -/
theorem takeStep_noRequest (hreq : ∀ t e, advance s ≠ .request t e) :
    takeStep s = .taken (advanced s) (recordAt s 0) := by
  obtain ⟨as, has⟩ := amplitudesBelow_total hI hd hp s.nch
  have hamps := amplitudesBelow_eq_record has
  unfold takeStep advanced
  rw [has]
  cases hv : advance s with
  | done t => simp [hamps, recordAt]
  | request t e => exact absurd hv (hreq t e)

/-- The state it leaves is legal. -/
theorem advanced_inv (ht : s.time < s.cfg.maxEndTime) (hreq : ∀ t e, advance s ≠ .request t e) : (advanced s).Inv := by
  have htaken := takeStep_noRequest hI hd hp hreq
  rcases takeStep_spec s hI hp ht with ⟨t, r, h, hInv, -⟩ | ⟨t, cur, h, -⟩ | ⟨h, -⟩ <;> rw [htaken] at h <;> cases h
  exact hInv

end

/-- The loop takes the single steps that are due, and records them in order (R251, R254). -/
theorem runSteps_noRequest {s : State} {endTime k : Nat} (hI : s.Inv) (hd : s.HostDuty) (hp : s.pending = false)
    (hE : endTime ≤ s.cfg.maxEndTime) (hk : k = stepsDue s endTime) (hreq : s.NoRequestBefore k) (steps : List StepRecord) :
    runSteps endTime k s steps = .finished (stepState k s) (steps ++ recordsBefore s k) := by
  induction k generalizing s steps with
  | zero => simp [runSteps, stepState, recordsBefore]
  | succ k ih =>
    obtain ⟨hnow, hlater⟩ := hreq.succ
    obtain ⟨hA, hS, htime⟩ := advanced_same s
    have hper := period_pos hI
    have ht : s.time < endTime := by
      by_contra hc
      rw [stepsDue_zero s endTime hper (by omega)] at hk
      cases hk
    have hdue : k = stepsDue (advanced s) endTime := by
      have hsucc := stepsDue_pos s endTime hper ht
      simp only [stepsDue, addPeriod_time, addPeriod_period, htime, hA.period] at hk hsucc ⊢
      omega
    have hrest := ih (advanced_inv hI hd hp (by omega) hnow) (HostDuty.of_same hA hd) (hS.pending.trans hp) (by rwa [hA.cfg]) hdue
      hlater (steps ++ [recordAt s 0])
    rw [runSteps, if_pos ht, takeStep_noRequest hI hd hp hnow]
    simp only [hrest, stepState, recordsBefore_succ, List.append_assoc, List.singleton_append]

/-- R254's count of the steps due: no more are needed than reach the target. -/
theorem stepsDue_le_iff {s : State} (hper : 1 ≤ s.period) (e n : Nat) : stepsDue s e ≤ n ↔ e ≤ s.time + n * s.period := by
  rw [stepsDue, ← Nat.ceilDiv_eq_add_pred_div, ceilDiv_le_iff_le_mul hper, tsub_le_iff_left, mul_comm]

/-- It is a quotient rounded up. -/
theorem stepsDue_eq_ceil {s : State} (hper : 1 ≤ s.period) (e : Nat) :
    Nat.ceil (((e : ℚ) - s.time) / s.period) = stepsDue s e := by
  have hq : (0 : ℚ) < s.period := by exact_mod_cast hper
  refine eq_of_forall_ge_iff fun n => ?_
  rw [Nat.ceil_le, div_le_iff₀ hq, sub_le_iff_le_add', stepsDue_le_iff hper]
  norm_cast

/-! ### The transactions of the course -/

/-- A channel's last level after one more record is the record's. -/
theorem channelLast_snoc (s : State) (c : Nat) (rs : List StepRecord) (r : StepRecord) (l : Int) :
    channelLast s c (rs ++ [r]) l = levelOf s c r := by
  induction rs generalizing l with
  | nil => rfl
  | cons x rs ih => exact ih _

/-- A channel's transactions with one more record: one more where the level changes (R256). -/
theorem channelTxs_snoc (s : State) (c : Nat) (rs : List StepRecord) (r : StepRecord) (l : Int) :
    channelTxs s c (rs ++ [r]) l = channelTxs s c rs l ++ channelTxs s c [r] (channelLast s c rs l) := by
  induction rs generalizing l with
  | nil => rfl
  | cons x rs ih =>
    rw [List.cons_append, channelTxs, ih, ← List.append_assoc]
    rfl

/-- The kind of the transactions, as the statements give it (R257). -/
theorem sinkKind_eq_txKind (s : State) : sinkKind s = s.txKind := by
  unfold sinkKind State.txKind
  cases s.waveform <;> cases s.cfg.sampleSink <;> rfl

section
variable {s : State} {c : Nat}

/-- The level of a step's record is the step's level (R255). -/
theorem levelOf_recordAt (hc : c < s.nch) (j : Nat) : levelOf s c (recordAt s j) = levelAt s c j := by
  unfold levelOf levelAt recordAt
  cases ha : amplitude (stepState j s) c <;> simp [hc, ha, level, asr]

/-- The level before a step is the last level of the records before it. -/
theorem channelLast_recordsBefore (hc : c < s.nch) (k : Nat) :
    channelLast s c (recordsBefore s k) (s.lastAt c) = levelBefore s c k := by
  cases k with
  | zero => rfl
  | succ k => rw [recordsBefore_snoc, channelLast_snoc, levelOf_recordAt hc, levelBefore]

/-- The transactions of one step (R256). -/
theorem channelTxs_recordAt (hc : c < s.nch) (k : Nat) :
    channelTxs s c [recordAt s k] (levelBefore s c k) =
      if levelAt s c k = levelBefore s c k then []
      else [⟨s.txKind, c, s.time + k * s.period, levelAt s c k - levelBefore s c k⟩] := by
  simp only [channelTxs, levelOf_recordAt hc, sinkKind_eq_txKind, List.append_nil, sub_ne_zero, ite_not]
  rfl

/-- The transactions of the records are the changes of level (R256, R257). -/
theorem channelTxs_recordsBefore (hc : c < s.nch) (k : Nat) :
    channelTxs s c (recordsBefore s k) (s.lastAt c) = levelChanges s c k := by
  induction k with
  | zero => rfl
  | succ k ih =>
    rw [recordsBefore_snoc, channelTxs_snoc, ih, channelLast_recordsBefore hc, channelTxs_recordAt hc]
    simp only [levelChanges, List.range_succ, List.filterMap_append, List.filterMap_cons, List.filterMap_nil]
    split <;> rfl

end

/-! ### A whole RUN -/

/-- RUN, of an attached oscillator, within MAX_GEN (R250, R252). -/
theorem exec_run {s : State} {e : Nat} (hatt : s.attached = true) (hp : s.pending = false) (hE : e ≤ s.cfg.maxEndTime) :
    exec (.run e) s = continueCommand .run e [] s := by
  show execRun e s = _
  simp [execRun, hatt, hp, Nat.not_lt.2 hE]

/-- A RUN that no request interrupts: `k` single steps, the emission of their records, and the response. -/
theorem exec_run_noRequest {s : State} {e : Nat} (hI : s.Inv) (hd : s.HostDuty) (hatt : s.attached = true)
    (hp : s.pending = false) (hE : e ≤ s.cfg.maxEndTime) (hreq : s.NoRequestBefore (stepsDue s e)) :
    exec (.run e) s =
      .next ((emitSteps (recordsBefore s (stepsDue s e)) (stepState (stepsDue s e) s)).respond .ok) := by
  rw [exec_run hatt hp hE, continueCommand, runSteps_noRequest hI hd hp hE rfl hreq]
  rfl

section
variable (s : State) (k : Nat)

/-- The transactions emitted after `k` single steps: the changes of level, channel by channel (R257). -/
theorem emitSteps_stepState_out :
    (emitSteps (recordsBefore s k) (stepState k s)).out =
      s.out ++ ((List.range s.nch).flatMap fun c => levelChanges s c k).map .sink := by
  obtain ⟨hA, hS, -⟩ := stepState_same k s
  have htxs : ∀ c ∈ List.range s.nch,
      channelTxs (stepState k s) c (recordsBefore s k) ((stepState k s).lastAt c) = levelChanges s c k := fun c hc => by
    rw [channelTxs_congr hA.cfg hA.volume hA.waveform, State.lastAt, hS.last]
    exact channelTxs_recordsBefore (List.mem_range.1 hc) k
  rw [emitSteps_out, hA.nch, hS.out, List.flatMap_congr htxs]

/-- The last levels after them (R256). -/
theorem emitSteps_stepState_lastAt {c : Nat} (hc : c < s.last.length) :
    (emitSteps (recordsBefore s k) (stepState k s)).lastAt c = if c < s.nch then levelBefore s c k else s.lastAt c := by
  obtain ⟨hA, hS, -⟩ := stepState_same k s
  have hlast : (stepState k s).lastAt c = s.lastAt c := by rw [State.lastAt, hS.last]; rfl
  rw [emitSteps_lastAt _ _ c (by rwa [hS.last]), hA.nch, hlast, channelLast_congr hA.cfg hA.volume]
  split
  · next hn => exact channelLast_recordsBefore hn k
  · rfl

end

/-- Settles O41: the loop is `k` single steps, and the emission sends the changes of level. -/
theorem runEmitsLevelChanges : Obligations.RunEmitsLevelChanges := by
  intro s e k hI hd hatt hp hE hk hreq
  rw [stepsDue_eq_ceil (period_pos hI)] at hk
  subst hk
  refine ⟨_, exec_run_noRequest hI hd hatt hp hE hreq, ?_, ?_, fun c hc => ?_⟩
  · rw [emitSteps_frame]
    rfl
  · rw [respond_out, emitSteps_stepState_out]
    rfl
  · exact emitSteps_stepState_lastAt s _ (by rwa [hI.1.2.2])

end Sys2Proof.Machine
end

section
/-! SUPPORT. What every command sends to the sink (41_pulse_generation.md R256, R257): RUN, END and BOUNDARY_REPLY send the
transactions of recorded steps (`EmitsSteps`), every other command none (`Silent`). -/

namespace Sys2Proof.Machine

/-! ### Sink transactions among the outputs -/

@[simp] theorem sinkTxs_append (es fs : List PortEvent) : sinkTxs (es ++ fs) = sinkTxs es ++ sinkTxs fs := by
  induction es with
  | nil => rfl
  | cons e es ih => cases e <;> simp [sinkTxs, ih]

@[simp] theorem sinkTxs_map_sink (txs : List SinkTx) : sinkTxs (txs.map .sink) = txs := by
  induction txs with
  | nil => rfl
  | cons tx txs ih => simp [sinkTxs, ih]

/-! ### Commands that send nothing -/

/-- What the result adds to the output ports holds no sink transaction. -/
def Silent (s : State) (r : Result) : Prop := ∀ t, r = .next t → ∃ es, t.out = s.out ++ es ∧ sinkTxs es = []

section
variable {s u : State} {st : Status} {a b : Result}

/-- An effect that leaves the output ports alone, and its response. -/
theorem silent_succeed (h : u.out = s.out) : Silent s (succeed u) := by
  rintro _ ⟨⟩
  exact ⟨_, by rw [respond_out, h], rfl⟩

theorem silent_fail : Silent s (fail st s) := by
  rintro _ ⟨⟩
  exact ⟨_, respond_out s st, rfl⟩

theorem silent_answer (v : Word) : Silent s (answer v s) := by
  rintro _ ⟨⟩
  exact ⟨_, rfl, rfl⟩

theorem silent_failValue : Silent s (failValue st s) := by
  rintro _ ⟨⟩
  exact ⟨_, rfl, rfl⟩

theorem silent_ite {c : Prop} [Decidable c] (ha : Silent s a) (hb : Silent s b) : Silent s (if c then a else b) := by
  split
  · exact ha
  · exact hb

/-- A check of the command, refused where it fails. -/
theorem silent_unless {c : Prop} [Decidable c] (h : Silent s a) : Silent s (if c then fail st s else a) :=
  silent_ite silent_fail h

end

@[simp] theorem restart_out (s : State) : (restart s).out = s.out := by rw [restart_eq]
@[simp] theorem clearTime_out (s : State) : (clearTime s).out = s.out := by rw [clearTime_eq]
@[simp] theorem dropWave_out (s : State) : (dropWave s).out = s.out := by rw [dropWave_eq]
@[simp] theorem dropSample_out (s : State) : (dropSample s).out = s.out := by rw [dropSample_eq]

@[simp] theorem replaceWave_out (h : Nat) (s : State) : (replaceWave h s).out = s.out := by
  unfold replaceWave
  repeat' split
  all_goals simp

@[simp] theorem replaceSample_out (h : Nat) (s : State) : (replaceSample h s).out = s.out := by
  unfold replaceSample
  repeat' split
  all_goals simp

@[simp] theorem disposeWave_out (h : Nat) (s : State) : (disposeWave h s).out = s.out := by
  unfold disposeWave
  split <;> simp

@[simp] theorem disposeSample_out (h : Nat) (s : State) : (disposeSample h s).out = s.out := by
  unfold disposeSample
  split <;> simp

/-- SET_ATTR WAVEFORM (R400, R411). -/
theorem execSetAttrWaveform_silent (v : Int) (s : State) : Silent s (execSetAttrWaveform v s) :=
  silent_unless <| by
    cases builtinOfCode v with
    | none => exact silent_fail
    | some w => exact silent_ite (silent_succeed rfl) (silent_succeed rfl)

/-- SET_ATTR SAMPLE_REPEAT (R409, R411). -/
theorem execSetAttrSampleRepeat_silent (v : Int) (s : State) : Silent s (execSetAttrSampleRepeat v s) :=
  silent_unless <| by
    cases policyOfCode v with
    | none => exact silent_fail
    | some p => exact silent_succeed rfl

/-- SET_PTR WAVEFORM (R500, R504). -/
theorem execSetPtrWaveform_silent (h : Nat) (s : State) : Silent s (execSetPtrWaveform h s) :=
  silent_unless <| silent_ite (silent_succeed (dropWave_out s)) <| by
    cases dataShape s h with
    | none => exact silent_fail
    | some sh => exact silent_ite (silent_succeed rfl) silent_fail

/-- SET_PTR SAMPLE (R501, R504). -/
theorem execSetPtrSample_silent (h : Nat) (s : State) : Silent s (execSetPtrSample h s) :=
  silent_unless <| silent_ite (silent_succeed (dropSample_out s)) <| by
    cases dataShape s h with
    | none => exact silent_fail
    | some sh => exact silent_ite (silent_succeed (restart_out _)) silent_fail

/-- The commands that take steps: RUN, END and the reply that resumes one of them. -/
def generates : Instr → Bool
  | .run _ | .endChunk _ | .boundaryReply _ => true
  | _ => false

theorem generates_iff (i : Instr) :
    generates i = true ↔ (∃ e, i = .run e) ∨ (∃ e, i = .endChunk e) ∨ ∃ p, i = .boundaryReply p := by
  cases i <;> simp [generates]

/-- No other command sends anything (R411, R465, R504, R350, R354); the last case is the GETs. -/
theorem exec_silent {i : Instr} (h : generates i = false) (s : State) : Silent s (exec i s) := by
  cases i with
  | setAttrWaveform v => exact execSetAttrWaveform_silent v s
  | setAttrDutyCycle | setAttrPeriod | setAttrVolume | setAttrSamplePeriod | setAttrSampleCallback =>
    exact silent_unless (silent_succeed rfl)
  | setAttrPhase v => exact silent_unless (silent_succeed (by split <;> simp))
  | setAttrVolumeN n v => exact silent_unless (silent_unless (silent_succeed rfl))
  | setAttrSampleOffset | setAttrSampleEnd => exact silent_unless (silent_unless (silent_succeed (restart_out _)))
  | setAttrSampleRepeat v => exact execSetAttrSampleRepeat_silent v s
  | getAttrVolumeN n => exact silent_ite (silent_answer _) silent_failValue
  | setPtrWaveform hdl => exact execSetPtrWaveform_silent hdl s
  | setPtrSample hdl => exact execSetPtrSample_silent hdl s
  | run | endChunk | boundaryReply => cases h
  | reset => exact silent_unless (silent_succeed (clearTime_out s))
  | attach n => exact silent_unless (silent_unless (silent_unless (silent_succeed (clearTime_out _))))
  | detach => exact silent_unless (silent_unless (silent_succeed (clearTime_out _)))
  | dataNotifyReplaced | dataNotifyDisposed => exact silent_unless (silent_unless (silent_succeed (by simp)))
  | reservedOp0 | reservedOpcToOpf => exact silent_fail
  | _ => exact silent_answer _

/-- Nor does an illegal encoding (R158). -/
theorem rejectIllegal_silent (why : Illegal) (s : State) : Silent s (rejectIllegal why s) := by
  unfold rejectIllegal
  cases why with
  | reservedBits op => exact silent_ite silent_failValue silent_fail
  | keyOnKeyless op => exact silent_fail
  | unlistedKey op => exact silent_ite silent_failValue (silent_unless silent_fail)
  | readOnlyKey => exact silent_unless silent_fail

/-! ### The emission of recorded steps -/

/-- The transactions of recorded steps, channel by channel (R257). -/
def stepTxs (s : State) (rs : List StepRecord) : List SinkTx :=
  (List.range s.nch).flatMap fun c => channelTxs s c rs (s.lastAt c)

/-- From `s` to `u` the sink has got the transactions of legal recorded steps, and the last levels are those of the steps
(R256, R257). With no steps, nothing is sent and every level stays. -/
def EmitsSteps (s u : State) : Prop :=
  ∃ rs es, (∀ r ∈ rs, StepRecord.legal s.cfg s.nch s.cfg.maxEndTime r) ∧ u.out = s.out ++ es ∧
    sinkTxs es = stepTxs s rs ∧
    ∀ c < s.last.length, u.lastAt c = if c < s.nch then channelLast s c rs (s.lastAt c) else s.lastAt c

theorem stepTxs_nil (s : State) : stepTxs s [] = [] := by simp [stepTxs, channelTxs]

section
variable {s t u v : State} {es : List PortEvent}

/-- Outputs that are no transactions, the levels staying, are the emission of no steps. -/
theorem emitsSteps_of_silent (hout : u.out = s.out ++ es) (hes : sinkTxs es = []) (hlast : u.last = s.last) :
    EmitsSteps s u :=
  ⟨[], es, by simp, hout, hes.trans (stepTxs_nil s).symm, fun c _ => by simp [channelLast, State.lastAt, hlast]⟩

/-- Such outputs after an emission leave it one. -/
theorem EmitsSteps.silent_after (h : EmitsSteps s u) (hout : v.out = u.out ++ es) (hes : sinkTxs es = [])
    (hlast : v.last = u.last) : EmitsSteps s v := by
  obtain ⟨rs, fs, hrs, hu, hfs, hl⟩ := h
  exact ⟨rs, fs ++ es, hrs, by simp [hout, hu], by simp [hes, hfs], by simpa only [State.lastAt, hlast] using hl⟩

/-- So do such outputs before it. -/
theorem EmitsSteps.silent_before (h : EmitsSteps t u) (hA : SameAttributes s t) (hout : t.out = s.out ++ es)
    (hes : sinkTxs es = []) (hlast : t.last = s.last) : EmitsSteps s u := by
  obtain ⟨rs, fs, hrs, hu, hfs, hl⟩ := h
  have hlastAt : ∀ c, t.lastAt c = s.lastAt c := fun c => by rw [State.lastAt, hlast]; rfl
  have htxs : stepTxs t rs = stepTxs s rs := by
    simp only [stepTxs, hA.nch, channelTxs_congr hA.cfg hA.volume hA.waveform, hlastAt]
  refine ⟨rs, es ++ fs, by rwa [← hA.cfg, ← hA.nch], by simp [hout, hu], by simp [hes, hfs, htxs], ?_⟩
  simpa only [hlast, hA.nch, channelLast_congr hA.cfg hA.volume, hlastAt] using hl

end

/-- `EmitSteps(u)` sends the transactions of its steps. -/
theorem emitSteps_emitsSteps {s : State} {rs : List StepRecord}
    (h : ∀ r ∈ rs, StepRecord.legal s.cfg s.nch s.cfg.maxEndTime r) : EmitsSteps s (emitSteps rs s) :=
  ⟨rs, _, h, emitSteps_out rs s, sinkTxs_map_sink _, emitSteps_lastAt rs s⟩

/-- A whole RUN or END, or the rest of one: the steps' transactions where it finishes, and none where it suspends. -/
theorem continueCommand_emitsSteps {kind : SuspKind} {endTime : Nat} {steps : List StepRecord} {s u : State}
    (hI : s.Inv) (hp : s.pending = false) (hE : endTime ≤ s.cfg.maxEndTime) (hsteps : StepsLegal s endTime steps)
    (h : continueCommand kind endTime steps s = .next u) : EmitsSteps s u := by
  have hrun := runSteps_spec endTime (stepsDue s endTime) s hE steps hI hp hsteps rfl
  unfold continueCommand at h
  rcases hrun with ⟨t, rs, e, -, hA, hP, -, -, hrs⟩ | ⟨v, rs, cur, e, -, -, hP, -⟩ | ⟨e, -⟩ <;> rw [e] at h <;> cases h
  · have hlegal : ∀ r ∈ rs, StepRecord.legal t.cfg t.nch t.cfg.maxEndTime r := fun r hr => by
      obtain ⟨⟨htime, hamps⟩, -⟩ := hrs.1 r hr
      exact ⟨htime.trans_le (by rwa [hA.cfg]), hamps⟩
    have hemit := (emitSteps_emitsSteps hlegal).silent_before hA (es := []) (by simp [hP.out]) rfl hP.last
    refine hemit.silent_after (es := [.response Status.ok.word none]) ?_ rfl ?_ <;> rw [applyShift_eq] <;> rfl
  · exact emitsSteps_of_silent (congrArg (· ++ _) hP.out) rfl hP.last

/-! ### RUN, END and BOUNDARY_REPLY -/

/-- A RUN is refused, or it is continued from its first step (R250, R252). -/
theorem exec_run_cases {e : Nat} {s t : State} (h : exec (.run e) s = .next t) :
    (∃ st, t = s.respond st) ∨ s.pending = false ∧ e ≤ s.cfg.maxEndTime ∧ continueCommand .run e [] s = .next t := by
  change execRun e s = .next t at h
  unfold execRun at h
  split_ifs at h with hp ha he
  · cases h; exact .inl ⟨_, rfl⟩
  · cases h; exact .inl ⟨_, rfl⟩
  · cases h; exact .inl ⟨_, rfl⟩
  · exact .inr ⟨by simpa using hp, Nat.le_of_not_lt he, h⟩

/-- So is an END (R262). -/
theorem exec_endChunk_cases {e : Nat} {s t : State} (h : exec (.endChunk e) s = .next t) :
    (∃ st, t = s.respond st) ∨
      s.pending = false ∧ e ≤ s.cfg.maxEndTime ∧ continueCommand (.endChunk (wholeSamples s.cfg e)) e [] s = .next t := by
  change execEndChunk e s = .next t at h
  unfold execEndChunk at h
  split_ifs at h with hp ha he
  · cases h; exact .inl ⟨_, rfl⟩
  · cases h; exact .inl ⟨_, rfl⟩
  · cases h; exact .inl ⟨_, rfl⟩
  · exact .inr ⟨by simpa using hp, Nat.le_of_not_lt he, h⟩

/-- A BOUNDARY_REPLY is refused, or it resumes the suspended command (R322). -/
theorem exec_boundaryReply_cases {v : Int} {s t : State} (h : exec (.boundaryReply v) s = .next t) :
    (∃ st, t = s.respond st) ∨
      ∃ q p, s.pending = true ∧ s.susp = some q ∧ resume q p (leaveBoundaryWait s) = .next t := by
  change execBoundaryReply v s = .next t at h
  unfold execBoundaryReply at h
  split_ifs at h with hp
  · cases h; exact .inl ⟨_, rfl⟩
  · cases hq : s.susp with
    | none => rw [hq] at h; cases h; exact .inl ⟨_, rfl⟩
    | some q =>
      cases hv : policyOfCode v with
      | none => rw [hq, hv] at h; cases h; exact .inl ⟨_, rfl⟩
      | some p => rw [hq, hv] at h; exact .inr ⟨q, p, by simpa using hp, rfl, h⟩

/-- A resumed command goes on from a legal state, with the recorded steps a legal command has (R320 item 4, R608). -/
theorem resumed_legal {s : State} {q : Susp} (hI : s.Inv) (hp : s.pending = true) (hq : s.susp = some q) (p : Policy) :
    (addPeriod (applyPolicy p (leaveBoundaryWait s))).Inv ∧ q.endTime ≤ s.cfg.maxEndTime ∧
      StepsLegal (addPeriod (applyPolicy p (leaveBoundaryWait s))) q.endTime (q.steps ++ [⟨q.cur.time, q.cur.amps⟩]) := by
  have hparked := leaveBoundaryWait_parked_inv hI
  have hper : 1 ≤ s.period := period_pos hI
  obtain ⟨-, -, -, -, -, ⟨hpos, -⟩, ⟨-, hpend, hlegal⟩, -⟩ := hI
  obtain ⟨-, hw, -, -, hlt, -⟩ := hpend hp
  obtain ⟨hE, -, ⟨hcur, htime⟩, ⟨hlen, hamps⟩, -, hsteps⟩ := hlegal q hq
  obtain ⟨hA, hP, ht⟩ := applyPolicy_same p (leaveBoundaryWait s)
  have hcfg : (applyPolicy p (leaveBoundaryWait s)).cfg = s.cfg := hA.cfg
  have htime' : (applyPolicy p (leaveBoundaryWait s)).time = s.time := ht
  have hbefore : s.time < s.cfg.maxEndTime := htime.trans_le hE
  refine ⟨addPeriod_inv _ (applyPolicy_inv hparked rfl hw hlt hpos p) hP.pending (by rwa [htime', hcfg]), hE, ?_⟩
  refine StepsLegal.snoc (s := s) hsteps hcfg hA.nch hcur htime ?_ hlen hamps
  rw [addPeriod_time, htime', hA.period]
  exact Nat.lt_add_of_pos_right hper

/-- The reply's own response, then the emission of the command it resumes (R323). -/
theorem resume_emitsSteps {s u : State} {q : Susp} {p : Policy} (hI : s.Inv) (hp : s.pending = true) (hq : s.susp = some q)
    (h : resume q p (leaveBoundaryWait s) = .next u) : EmitsSteps s u := by
  obtain ⟨hvI, hE, hsteps⟩ := resumed_legal hI hp hq p
  obtain ⟨hA, hP, -⟩ := applyPolicy_same p (leaveBoundaryWait s)
  have hvA : SameAttributes s (addPeriod (applyPolicy p (leaveBoundaryWait s))) :=
    .trans' (by constructor <;> rfl) (hA.trans' (by constructor <;> rfl))
  have hemit := continueCommand_emitsSteps hvI hP.pending (by rwa [hvA.cfg]) hsteps h
  exact hemit.silent_before hvA (es := [.response _ none]) hP.out rfl hP.last

/-- What RUN, END and BOUNDARY_REPLY send is the emission of recorded steps. -/
theorem exec_emitsSteps {i : Instr} {s t : State} (hI : s.Inv) (hi : generates i = true) (h : exec i s = .next t) :
    EmitsSteps s t := by
  have hrefused : ∀ st, EmitsSteps s (s.respond st) := fun st => emitsSteps_of_silent (respond_out s st) rfl rfl
  rcases (generates_iff i).1 hi with ⟨e, rfl⟩ | ⟨e, rfl⟩ | ⟨v, rfl⟩
  · rcases exec_run_cases h with ⟨st, rfl⟩ | ⟨hp, hE, hrun⟩
    · exact hrefused st
    · exact continueCommand_emitsSteps hI hp hE (stepsLegal_nil _ _) hrun
  · rcases exec_endChunk_cases h with ⟨st, rfl⟩ | ⟨hp, hE, hrun⟩
    · exact hrefused st
    · exact continueCommand_emitsSteps hI hp hE (stepsLegal_nil _ _) hrun
  · rcases exec_boundaryReply_cases h with ⟨st, rfl⟩ | ⟨q, p, hp, hq, hrun⟩
    · exact hrefused st
    · exact resume_emitsSteps hI hp hq hrun

/-! ### Every transaction is legal -/

/-- A transaction of recorded steps is on its channel, at a recorded step's time, and carries a change between two levels. -/
theorem channelTxs_legal {s : State} {c n e : Nat} {rs : List StepRecord} {l : Int} (hc : s.cfg.WellFormed)
    (hv : s.volumeAt c ≤ s.cfg.volMax) (hl : LevelValue s.cfg l) (hrs : ∀ r ∈ rs, StepRecord.legal s.cfg n e r) {tx : SinkTx}
    (htx : tx ∈ channelTxs s c rs l) :
    tx.channel = c ∧ tx.time < e ∧ tx.delta ≠ 0 ∧ |tx.delta| ≤ s.cfg.levelMax - s.cfg.levelMin := by
  induction rs generalizing l with
  | nil => cases htx
  | cons r rs ih =>
    have hlevel : LevelValue s.cfg (levelOf s c r) :=
      channelLast_range s c n e [r] l hc hl hv fun x hx => hrs x (List.mem_cons.2 (.inl (List.mem_singleton.1 hx)))
    rcases List.mem_append.1 htx with hnow | hlater
    · split at hnow
      case isTrue hne =>
        cases List.mem_singleton.1 hnow
        refine ⟨rfl, (hrs r List.mem_cons_self).1, hne, abs_le.2 ?_⟩
        obtain ⟨hlo, hhi⟩ := hl
        obtain ⟨hlo', hhi'⟩ := hlevel
        simp only
        omega
      case isFalse => cases hnow
    · exact ih hlevel (fun x hx => hrs x (List.mem_cons_of_mem r hx)) hlater

/-- So every transaction of an emission is legal. -/
theorem EmitsSteps.legal {s u : State} (hI : s.Inv) (h : EmitsSteps s u) :
    ∃ es, u.out = s.out ++ es ∧ ∀ tx ∈ sinkTxs es, tx.channel < s.nch ∧ tx.time < s.cfg.maxEndTime ∧ tx.delta ≠ 0 ∧
      |tx.delta| ≤ s.cfg.levelMax - s.cfg.levelMin := by
  obtain ⟨rs, es, hrs, hout, hes, -⟩ := h
  obtain ⟨⟨hcfg, -⟩, ⟨-, hnch⟩, ⟨-, -, -, hvol, -⟩, ⟨-, hlevel⟩, -⟩ := hI
  refine ⟨es, hout, fun tx htx => ?_⟩
  rw [hes, stepTxs, List.mem_flatMap] at htx
  obtain ⟨c, hmem, htx⟩ := htx
  have hc : c < s.nch := List.mem_range.1 hmem
  have hcm := hc.trans_le hnch
  obtain ⟨rfl, hlegal⟩ := channelTxs_legal hcfg (hvol c hcm) (hlevel c hcm) hrs htx
  exact ⟨hc, hlegal⟩

/-- A step sends nothing, or it performs a generating command. -/
theorem step_silent_or_generates {s t : State} (h : step s = .next t) :
    (∃ es, t.out = s.out ++ es ∧ sinkTxs es = []) ∨
      ∃ i rest, decode s.cmd = .command i rest ∧ generates i = true ∧ exec i { s with cmd := rest } = .next t := by
  unfold step at h
  split at h
  case h_1 =>
    cases h
    exact .inl ⟨[], by simp, rfl⟩
  case h_2 i rest hdec =>
    cases hi : generates i with
    | false => exact .inl (exec_silent hi { s with cmd := rest } t h)
    | true => exact .inr ⟨i, rest, hdec, hi, h⟩
  case h_3 why rest _ => exact .inl (rejectIllegal_silent why { s with cmd := rest } t h)

/-- Settles O42: a generating command sends the transactions of recorded steps, which are legal; nothing else sends any. -/
theorem emittedTransactionsAreLegal : Obligations.EmittedTransactionsAreLegal := by
  intro s t hI hstep
  rcases step_silent_or_generates hstep with ⟨es, hout, hes⟩ | ⟨i, rest, hdec, hi, hexec⟩
  · exact ⟨es, hout, by simp [hes], fun h => absurd hes h⟩
  · obtain ⟨es, hout, hlegal⟩ := EmitsSteps.legal (s := { s with cmd := rest }) hI (exec_emitsSteps hI hi hexec)
    refine ⟨es, hout, fun tx htx => ?_, fun _ => ⟨i, rest, hdec, (generates_iff i).1 hi⟩⟩
    obtain ⟨hc, ht, hd, hbound⟩ := hlegal tx htx
    refine ⟨hc, ht, hd, hbound, fun hdefault => hbound.trans ?_⟩
    simp only [hdefault]
    decide

/-! ### The deltas sum to the change of level -/

theorem deltaSum_append (c : Nat) (xs ys : List SinkTx) : deltaSum c (xs ++ ys) = deltaSum c xs + deltaSum c ys := by
  induction xs with
  | nil => simp [deltaSum]
  | cons x xs ih => simp [deltaSum, ih, add_assoc]

/-- One channel's transactions telescope to the change of its level, and add nothing to another's (R261). -/
theorem deltaSum_channelTxs (s : State) (c d : Nat) (rs : List StepRecord) (l : Int) :
    deltaSum c (channelTxs s d rs l) = if d = c then channelLast s d rs l - l else 0 := by
  induction rs generalizing l with
  | nil => simp [channelTxs, channelLast, deltaSum]
  | cons r rs ih =>
    have hhead : deltaSum c (if levelOf s d r - l ≠ 0 then [⟨sinkKind s, d, r.time, levelOf s d r - l⟩] else []) =
        if d = c then levelOf s d r - l else 0 := by
      by_cases hne : levelOf s d r - l = 0 <;> simp [hne, deltaSum]
    rw [channelTxs, channelLast, deltaSum_append, hhead, ih]
    split <;> omega

/-- The passes of channels `0 .. n-1` add to a channel's sum the change of its level, if it is among them. -/
theorem deltaSum_passes (s : State) (c : Nat) (rs : List StepRecord) (n : Nat) :
    deltaSum c ((List.range n).flatMap fun d => channelTxs s d rs (s.lastAt d)) =
      if c < n then channelLast s c rs (s.lastAt c) - s.lastAt c else 0 := by
  induction n with
  | zero => simp [deltaSum]
  | succ n ih =>
    rw [List.range_succ, List.flatMap_append, deltaSum_append, ih, List.flatMap_singleton, deltaSum_channelTxs]
    by_cases hc : n = c
    · subst hc
      simp
    · have hiff : c < n + 1 ↔ c < n := by omega
      simp [hc, hiff]

/-- The deltas of an emission sum to the change of the channel's last level (R261). -/
theorem EmitsSteps.deltaSum_eq {s u : State} {c : Nat} (h : EmitsSteps s u) (hc : c < s.last.length) :
    ∃ es, u.out = s.out ++ es ∧ deltaSum c (sinkTxs es) = u.lastAt c - s.lastAt c := by
  obtain ⟨rs, es, -, hout, hes, hlast⟩ := h
  refine ⟨es, hout, ?_⟩
  rw [hes, stepTxs, deltaSum_passes, hlast c hc]
  split <;> simp

/-- The commands that clear the levels: RESET, ATTACH and DETACH. -/
def clears : Instr → Bool
  | .reset | .attach _ | .detach => true
  | _ => false

theorem clears_iff (i : Instr) : clears i = true ↔ i = .reset ∨ i = .detach ∨ ∃ n, i = .attach n := by
  cases i <;> simp [clears]

/-- Only steps and ClearTime write a last level (R50). -/
theorem last_notMem_writes {i : Instr} (hg : generates i = false) (hc : clears i = false) : StateField.last ∉ writes i := by
  cases i with
  | run | endChunk | boundaryReply => cases hg
  | reset | attach | detach => cases hc
  | _ => simp [writes, notifyFields]

/-- ClearTime leaves no level (R357). -/
theorem clearTime_lastAt (s : State) {c : Nat} (hc : c < s.cfg.maxChannels) : (clearTime s).lastAt c = 0 := by
  rw [clearTime_eq]
  simp [State.lastAt, hc]

/-- RESET, ATTACH and DETACH leave the level 0, or, refused, as it was. -/
theorem exec_clears_lastAt {i : Instr} {s t : State} {c : Nat} (hi : clears i = true) (h : exec i s = .next t)
    (hc : c < s.cfg.maxChannels) : t.lastAt c = 0 ∨ t.lastAt c = s.lastAt c := by
  obtain ⟨u, es, rfl, hu⟩ := exec_performs i s t h
  cases hu with
  | unchanged => exact .inr rfl
  | reset | attach | detach => exact .inl (clearTime_lastAt _ hc)
  | _ => cases hi

/-- Settles O43: generating commands by the telescoping sum, the others send nothing; and all but the clearing ones keep the
level. -/
theorem deltasSumToLevelChange : Obligations.DeltasSumToLevelChange := by
  intro s t i c hI hexec hc
  have hlen : c < s.last.length := by rwa [hI.1.2.2]
  cases hg : generates i with
  | true =>
    obtain ⟨es, hout, hsum⟩ := (exec_emitsSteps hI hg hexec).deltaSum_eq hlen
    refine ⟨es, hout, fun _ _ _ => hsum, fun hclear => ?_⟩
    rcases hclear with rfl | rfl | ⟨n, rfl⟩ <;> cases hg
  | false =>
    obtain ⟨es, hout, hes⟩ := exec_silent hg s t hexec
    refine ⟨es, hout, fun hr hd ha => ?_, fun hclear => ⟨hes, exec_clears_lastAt ((clears_iff i).2 hclear) hexec hc⟩⟩
    have hcl : clears i = false := by
      rw [← Bool.not_eq_true, clears_iff]
      simp [hr, hd, ha]
    have hlast : t.last = s.last := commandsWriteOnlyTheirFields s t i .last hexec (last_notMem_writes hg hcl)
    simp [hes, deltaSum, State.lastAt, hlast]

end Sys2Proof.Machine
end

section
/-! SUPPORT. RUN and END one by one (41_pulse_generation.md): the level (R255), the refusals (R250, R252, R262), a RUN with
nothing due (R253), the steps due (R254), a silenced oscillator (R261) and END's shift (R270, R271). -/

namespace Sys2Proof.Machine

/-! ### Level (R255) -/

/-- The level is a floor, for every configuration. -/
theorem level_eq_floor (p : Config.Params) (a : Int) (v : Nat) : level p a v = Int.floor ((a * v : ℚ) / 2 ^ p.volFrac) := by
  have h := Rat.floor_intCast_div_natCast (a * v) (2 ^ p.volFrac)
  push_cast at h
  exact h.symm

/-- Nothing is heard at volume 0. -/
theorem level_zero (p : Config.Params) (a : Int) : level p a 0 = 0 := by simp [level, asr]

/-- With the defaults a level is at most 32767 in magnitude. -/
theorem abs_level_default_le {a : Int} {v : Nat} (hlo : -32768 ≤ a) (hhi : a ≤ 32767) (hv : v ≤ 32767) :
    |level Config.default a v| ≤ 32767 := by
  have hlow : -32768 * 32767 ≤ a * (v : Int) := by nlinarith
  have hhigh : a * (v : Int) ≤ 32767 * 32767 := by nlinarith
  have heq : level Config.default a v = a * v / 32768 := rfl
  rw [heq, abs_le]
  omega

/-- Settles O37: the lemmas above, and the spec's three examples by computation. -/
theorem levelFloors : Obligations.LevelFloors :=
  ⟨level_eq_floor, fun _ _ => abs_level_default_le, by decide, by decide, by decide, level_zero⟩

/-! ### Refusals (R250, R252, R262, R322) -/

section
variable {s : State}

theorem exec_run_detached (e : Nat) (hp : s.pending = false) (hatt : s.attached = false) :
    exec (.run e) s = .next (s.respond .invalidState) := by
  show execRun e s = _
  simp [execRun, fail, hp, hatt]

theorem exec_endChunk_detached (e : Nat) (hp : s.pending = false) (hatt : s.attached = false) :
    exec (.endChunk e) s = .next (s.respond .invalidState) := by
  show execEndChunk e s = _
  simp [execEndChunk, fail, hp, hatt]

theorem exec_run_tooLate {e : Nat} (hp : s.pending = false) (hatt : s.attached = true) (he : s.cfg.maxEndTime < e) :
    exec (.run e) s = .next (s.respond .invalidValue) := by
  show execRun e s = _
  simp [execRun, fail, hp, hatt, he]

theorem exec_endChunk_tooLate {e : Nat} (hp : s.pending = false) (hatt : s.attached = true) (he : s.cfg.maxEndTime < e) :
    exec (.endChunk e) s = .next (s.respond .invalidValue) := by
  show execEndChunk e s = _
  simp [execEndChunk, fail, hp, hatt, he]

theorem exec_boundaryReply_idle (v : Int) (hp : s.pending = false) :
    exec (.boundaryReply v) s = .next (s.respond .invalidState) := by
  show execBoundaryReply v s = _
  simp [execBoundaryReply, fail, hp]

/-- The codes of the policies are 0, 1 and 2 (R65). -/
theorem policyOfCode_eq_none {v : Int} (hv : v < 0 ∨ 2 < v) : policyOfCode v = none := by
  unfold policyOfCode
  rw [if_neg (by omega), if_neg (by omega), if_neg (by omega)]

theorem exec_boundaryReply_noPolicy {v : Int} (hp : s.pending = true) (hs : s.susp.isSome = true) (hv : v < 0 ∨ 2 < v) :
    exec (.boundaryReply v) s = .next (s.respond .invalidReturnValue) := by
  obtain ⟨q, hq⟩ := Option.isSome_iff_exists.1 hs
  show execBoundaryReply v s = _
  simp [execBoundaryReply, fail, hp, hq, policyOfCode_eq_none hv]

end

/-- Settles O38: one lemma per refusal. -/
theorem generatorRefusals : Obligations.GeneratorRefusals := fun _ =>
  ⟨fun e hp hatt => ⟨exec_run_detached e hp hatt, exec_endChunk_detached e hp hatt⟩,
    fun _ hp hatt he => ⟨exec_run_tooLate hp hatt he, exec_endChunk_tooLate hp hatt he⟩,
    fun v hp => exec_boundaryReply_idle v hp,
    fun _ hp hs hv => exec_boundaryReply_noPolicy hp hs hv⟩

/-! ### Nothing due (R253) -/

/-- The loop takes no step where the target is reached, whatever its bound. -/
theorem runSteps_nothingDue {s : State} {endTime : Nat} (h : endTime ≤ s.time) (k : Nat) (steps : List StepRecord) :
    runSteps endTime k s steps = .finished s steps := by
  cases k with
  | zero => rfl
  | succ k => rw [runSteps, if_neg (Nat.not_lt.2 h)]

/-- No steps, no emission. -/
theorem emitSteps_nil (s : State) : emitSteps [] s = s := by
  have hpass : ∀ n, emitBelow [] n s = s := fun n => by
    induction n with
    | zero => rfl
    | succ n ih =>
      have hset : s.setLast n (s.lastAt n) = s := by
        by_cases hn : n < s.last.length
        · simp [State.setLast, State.lastAt, hn]
        · exact setLast_beyond s n _ (Nat.le_of_not_lt hn)
      rw [emitBelow, ih, emitChannel, channelLast, hset]
      simp [channelTxs, State.emit]
  exact hpass s.nch

/-- Settles O40: the loop takes no step, so nothing is emitted. -/
theorem runWithNothingDue : Obligations.RunWithNothingDue := by
  intro s e hatt hp hE hdue
  rw [exec_run hatt hp hE, continueCommand, runSteps_nothingDue hdue]
  simp only [emitSteps_nil]
  rfl

/-! ### The registers in the course of the steps (R212) -/

/-- A single step outside SAMPLE mode. -/
theorem advanced_wave {s : State} (h : s.waveform ≠ .sample) :
    advanced s =
      addPeriod { s with
        phase := (s.phase + 1) % phaseCount s
        lfsr := if s.waveform = .noise then lfsrNext s.cfg.lfsrBits s.lfsr else s.lfsr } := by
  rw [advanced, advance_wave s h]

/-- A single step in SAMPLE mode moves playback alone, and the time (R306). -/
theorem advanced_sample {s : State} (h : s.waveform = .sample) :
    (advanced s).phase = s.phase ∧ (advanced s).lfsr = s.lfsr := by
  rw [advanced, advance_sample s h]
  rcases sampleAdvance_cases s with ⟨-, e⟩ | ⟨-, -, e⟩ | ⟨-, -, -, e⟩ | ⟨-, -, -, e⟩ <;> rw [e]
  · exact ⟨rfl, rfl⟩
  · exact ⟨rfl, rfl⟩
  · simp only [addPeriod_phase, addPeriod_lfsr]
    rw [applyPolicy_frame]
    exact ⟨rfl, rfl⟩
  · exact ⟨rfl, rfl⟩

/-- Outside SAMPLE mode `k` steps move the phase `k` on, and no playback (R212). -/
theorem stepState_wave {s : State} (h : s.waveform ≠ .sample) (hphase : s.phase < phaseCount s) (k : Nat) :
    (stepState k s).phase = (s.phase + k) % phaseCount s ∧ (stepState k s).pos = s.pos ∧ (stepState k s).dir = s.dir ∧
      (stepState k s).halted = s.halted := by
  induction k generalizing s with
  | zero => exact ⟨(Nat.mod_eq_of_lt hphase).symm, rfl, rfl, rfl⟩
  | succ k ih =>
    obtain ⟨hA, -, -⟩ := advanced_same s
    have hcount : phaseCount (advanced s) = phaseCount s := phaseCount_congr hA.cfg hA.waveform fun _ => hA.waveShape
    have hnext : (advanced s).phase = (s.phase + 1) % phaseCount s := by rw [advanced_wave h]; rfl
    obtain ⟨hph, hpos, hdir, hhalt⟩ := ih (s := advanced s) (by rwa [hA.waveform])
      (by rw [hcount, hnext]; exact Nat.mod_lt _ (Nat.zero_lt_of_lt hphase))
    rw [stepState, hph, hpos, hdir, hhalt, hcount, hnext, Nat.mod_add_mod, advanced_wave h]
    exact ⟨by congr 1; omega, rfl, rfl, rfl⟩

/-- In SAMPLE mode they leave the phase (R212). -/
theorem stepState_phase_sample {s : State} (h : s.waveform = .sample) (k : Nat) : (stepState k s).phase = s.phase := by
  induction k generalizing s with
  | zero => rfl
  | succ k ih => rw [stepState, ih ((advanced_same s).1.waveform.trans h), (advanced_sample h).1]

/-- The noise register shifts once at each step of NOISE, and at no other (R212). -/
theorem advanced_lfsr (s : State) :
    (advanced s).lfsr = if s.waveform = .noise then lfsrNext s.cfg.lfsrBits s.lfsr else s.lfsr := by
  by_cases h : s.waveform = .sample
  · rw [(advanced_sample h).2, if_neg (by simp [h])]
  · rw [advanced_wave h]
    rfl

theorem stepState_lfsr (s : State) (k : Nat) :
    (stepState k s).lfsr = if s.waveform = .noise then (lfsrNext s.cfg.lfsrBits)^[k] s.lfsr else s.lfsr := by
  induction k generalizing s with
  | zero => simp [stepState]
  | succ k ih =>
    obtain ⟨hA, -, -⟩ := advanced_same s
    rw [stepState, ih, hA.waveform, hA.cfg, advanced_lfsr]
    split <;> rfl

/-- Settles O39: a RUN is `k` single steps, of which each register's course is known. -/
theorem runTakesTheStepsDue : Obligations.RunTakesTheStepsDue := by
  intro s e k hI hd hatt hp hE hk hreq
  obtain ⟨t, hexec, ht, hout, -⟩ := runEmitsLevelChanges s e k hI hd hatt hp hE hk hreq
  obtain ⟨hA, hP, htime⟩ := stepState_same k s
  refine ⟨t, _, hexec, hout, ?_⟩
  rw [ht]
  refine ⟨htime, hA.trans' (by constructor <;> rfl), hP.pending.trans hp, hP.susp.trans (susp_eq_none hI hp),
    fun hw => stepState_wave hw hI.2.2.1.1 k, fun hw => stepState_phase_sample hw k, stepState_lfsr s k⟩

/-! ### A silenced oscillator (R261) -/

/-- A channel at volume 0 has level 0 at every step. -/
theorem levelAt_of_volume_zero {s : State} {c : Nat} (h : s.volumeAt c = 0) (j : Nat) : levelAt s c j = 0 := by
  unfold levelAt
  cases amplitude (stepState j s) c <;> simp [h]

/-- One more step at the end sends its change of level. -/
theorem levelChanges_succ (s : State) (c k : Nat) :
    levelChanges s c (k + 1) = levelChanges s c k ++
      if levelAt s c k = levelBefore s c k then []
      else [⟨s.txKind, c, s.time + k * s.period, levelAt s c k - levelBefore s c k⟩] := by
  simp only [levelChanges, List.range_succ, List.filterMap_append, List.filterMap_cons, List.filterMap_nil]
  by_cases h : levelAt s c k = levelBefore s c k <;> simp only [h, if_true, if_false]

/-- Where every step's level is 0 the first step closes the level, and no other sends anything. -/
theorem levelChanges_of_silent {s : State} {c : Nat} (h : ∀ j, levelAt s c j = 0) (k : Nat) :
    levelChanges s c (k + 1) = if s.lastAt c = 0 then [] else [⟨s.txKind, c, s.time, -s.lastAt c⟩] := by
  induction k with
  | zero => rw [levelChanges_succ]; simp [levelChanges, levelBefore, h, eq_comm]
  | succ k ih => rw [levelChanges_succ, ih, levelBefore, h, h, if_pos rfl, List.append_nil]

/-- So a silent course sends the closing deltas. -/
theorem flatMap_levelChanges_of_silent {s : State} (h : ∀ c < s.nch, ∀ j, levelAt s c j = 0) (k : Nat) :
    ((List.range s.nch).flatMap fun c => levelChanges s c (k + 1)) = closingTxs s := by
  rw [closingTxs, List.filterMap_eq_flatMap_toList]
  refine List.flatMap_congr fun c hc => ?_
  rw [levelChanges_of_silent (h c (List.mem_range.1 hc))]
  split <;> rfl

/-- Settles O44: every level of the steps is 0. -/
theorem silencedRunReturnsToZero : Obligations.SilencedRunReturnsToZero := by
  intro s e k hI hd hatt hp hdue hE hk hreq hvol
  obtain ⟨t, hexec, -, hout, hlast⟩ := runEmitsLevelChanges s e k hI hd hatt hp hE hk hreq
  have hsilent : ∀ c < s.nch, ∀ j, levelAt s c j = 0 := fun c hc => levelAt_of_volume_zero (hvol c hc)
  have hper := period_pos hI
  rw [stepsDue_eq_ceil hper, stepsDue_pos s e hper hdue] at hk
  subst hk
  refine ⟨t, hexec, ?_, fun c hc => ?_⟩
  · rw [hout, flatMap_levelChanges_of_silent hsilent]
  · rw [hlast c (hc.trans_le hI.2.1.2), if_pos hc]
    exact hsilent c hc _

/-! ### END (R270, R271) -/

/-- END, of an attached oscillator, within MAX_GEN (R262, R270). -/
theorem exec_endChunk {s : State} {e : Nat} (hatt : s.attached = true) (hp : s.pending = false) (hE : e ≤ s.cfg.maxEndTime) :
    exec (.endChunk e) s = continueCommand (.endChunk (wholeSamples s.cfg e)) e [] s := by
  show execEndChunk e s = _
  simp [execEndChunk, hatt, hp, Nat.not_lt.2 hE]

/-- END ends as the RUN of the same target does, but for the shift of the time. -/
theorem exec_endChunk_of_run {s u : State} {e : Nat} (hI : s.Inv) (hd : s.HostDuty) (hatt : s.attached = true)
    (hp : s.pending = false) (hE : e ≤ s.cfg.maxEndTime) (hreq : s.NoRequestBefore (stepsDue s e))
    (hrun : exec (.run e) s = .next u) : exec (.endChunk e) s = .next { u with time := u.time - wholeSamples s.cfg e } := by
  rw [exec_run_noRequest hI hd hatt hp hE hreq] at hrun
  cases hrun
  rw [exec_endChunk hatt hp hE, continueCommand, runSteps_noRequest hI hd hp hE rfl hreq]
  rfl

/-- R271: the steps due reach the target, and none begins at or after it. -/
theorem stepsDue_overshoot {s : State} (hper : 1 ≤ s.period) {e : Nat} (h : s.time < e + s.period) :
    s.time + stepsDue s e * s.period < e + s.period := by
  cases hk : stepsDue s e with
  | zero => simpa using h
  | succ k =>
    have hmore : ¬ e ≤ s.time + k * s.period := by
      rw [← stepsDue_le_iff hper, hk]
      omega
    rw [Nat.succ_mul]
    omega

/-- Settles O46: END is the RUN and the shift, and the RUN's time is known. -/
theorem endShiftsTheTime : Obligations.EndShiftsTheTime := by
  intro s e k hI hd hatt hp hE hk hreq
  obtain ⟨u, hexec, hu, -, -⟩ := runEmitsLevelChanges s e k hI hd hatt hp hE hk hreq
  have hper := period_pos hI
  rw [stepsDue_eq_ceil hper] at hk
  subst hk
  have htime : u.time = s.time + stepsDue s e * s.period := by rw [hu]; exact (stepState_same _ s).2.2
  have hreach : e ≤ s.time + stepsDue s e * s.period := (stepsDue_le_iff hper e _).1 le_rfl
  have hsplit : e / 2 ^ s.cfg.frac * 2 ^ s.cfg.frac + e % 2 ^ s.cfg.frac = e := Nat.div_add_mod' e _
  refine ⟨u, hexec, exec_endChunk_of_run hI hd hatt hp hE hreq hexec, htime ▸ hreach, fun hlt => ?_, fun hdue => ?_⟩
  · have hover := stepsDue_overshoot hper hlt
    omega
  · have hnothing := runWithNothingDue s e hatt hp hE hdue
    rw [hexec] at hnothing
    exact Host.Outcome.next.inj hnothing

end Sys2Proof.Machine
end

section
/-! SUPPORT. A span split into two chunks (41_pulse_generation.md R272): the course of the steps depends neither on the time nor
on what has been emitted, so the second chunk's steps are the rest of the one RUN's. -/

namespace Sys2Proof.Machine

/-! ### The course of a state at another time -/

/-- The state at another time, with other last levels and outputs. -/
def State.retimed (s : State) (time : Nat) (last : List Int) (out : List PortEvent) : State :=
  { s with time := time, last := last, out := out }

/-- The same of the state an advance comes to. -/
def Advanced.retimed (time : Nat) (last : List Int) (out : List PortEvent) : Advanced → Advanced
  | .done t => .done (t.retimed time last out)
  | .request t e => .request (t.retimed time last out) e

section
variable (s : State) (time : Nat) (last : List Int) (out : List PortEvent)

@[simp] theorem retimed_waveform : (s.retimed time last out).waveform = s.waveform := rfl
@[simp] theorem retimed_halted : (s.retimed time last out).halted = s.halted := rfl
@[simp] theorem retimed_sampleCallback : (s.retimed time last out).sampleCallback = s.sampleCallback := rfl
@[simp] theorem retimed_movePos : movePos (s.retimed time last out) = (movePos s).retimed time last out := rfl
@[simp] theorem retimed_outOfRange : outOfRange (s.retimed time last out) = outOfRange s := rfl
@[simp] theorem retimed_heldObject (h : Nat) (held : Shape) (id : Identity) :
    heldObject (s.retimed time last out) h held id = heldObject s h held id := rfl

@[simp] theorem retimed_done : (Advanced.done s).retimed time last out = .done (s.retimed time last out) := rfl
@[simp] theorem retimed_request (e : Edge) :
    (Advanced.request s e).retimed time last out = .request (s.retimed time last out) e := rfl

theorem applyPolicy_retimed (p : Policy) : applyPolicy p (s.retimed time last out) = (applyPolicy p s).retimed time last out := by
  cases p <;> rfl

/-- The position advance depends neither on the time nor on what has been emitted (R306). -/
theorem sampleAdvance_retimed : sampleAdvance (s.retimed time last out) = (sampleAdvance s).retimed time last out := by
  simp only [sampleAdvance, boundary, apply_ite (Advanced.retimed time last out), retimed_done, retimed_request,
    retimed_halted, retimed_movePos, retimed_outOfRange, retimed_sampleCallback, ← applyPolicy_retimed]
  rfl

/-- Nor does any other advance (R212). -/
theorem advance_retimed : advance (s.retimed time last out) = (advance s).retimed time last out := by
  by_cases hw : s.waveform = .sample
  · rw [advance_sample s hw, advance_sample (s.retimed time last out) hw, sampleAdvance_retimed]
  · rw [advance_wave s hw, advance_wave (s.retimed time last out) hw]
    rfl

theorem advanced_retimed : advanced (s.retimed time last out) = (advanced s).retimed (time + s.period) last out := by
  unfold advanced
  rw [advance_retimed]
  cases h : advance s with
  | done t =>
    have hper : t.period = s.period := (advance_done_same s t h).1.period
    simp only [retimed_done, addPeriod, State.retimed, hper]
  | request t e =>
    obtain ⟨-, -, -, rfl, -⟩ := advance_request s t e h
    rfl

theorem stepState_retimed (j : Nat) :
    stepState j (s.retimed time last out) = (stepState j s).retimed (time + j * s.period) last out := by
  induction j generalizing s time with
  | zero => simp [stepState]
  | succ j ih =>
    rw [stepState, advanced_retimed, ih, (advanced_same s).1.period, stepState]
    congr 1
    ring

/-- At another time no request is raised where none is. -/
theorem advance_retimed_noRequest (h : ∀ t e, advance s ≠ .request t e) (t : State) (e : Edge) :
    advance (s.retimed time last out) ≠ .request t e := by
  rw [advance_retimed]
  cases hv : advance s with
  | done u => simp
  | request u e' => exact absurd hv (h u e')

/-- A frame, where it can be read, is the same; a fault carries the outputs (R605). -/
theorem readFrame_retimed (h : Nat) (held : Shape) (id : Identity) (i : Int) (k : Nat) :
    (readFrame (s.retimed time last out) h held id i k).toOption = (readFrame s h held id i k).toOption := by
  unfold readFrame
  rw [retimed_heldObject]
  cases heldObject s h held id with
  | none => rfl
  | some o => dsimp only; split <;> rfl

/-- So is an amplitude (R200). -/
theorem amplitude_retimed (c : Nat) : (amplitude (s.retimed time last out) c).toOption = (amplitude s c).toOption := by
  cases hw : s.waveform with
  | custom =>
    rw [amplitude_custom c hw, amplitude_custom (s := s.retimed time last out) c hw]
    exact readFrame_retimed ..
  | sample =>
    rw [amplitude_sample c hw, amplitude_sample (s := s.retimed time last out) c hw, sampleAmp, sampleAmp, retimed_halted]
    split
    · rfl
    · exact readFrame_retimed ..
  | square | triangle | sawtooth | sine | noise => simp only [amplitude, retimed_waveform, hw]; rfl

/-- A level is read off the amplitude where there is one. -/
theorem levelAt_eq_toOption (c j : Nat) :
    levelAt s c j = ((amplitude (stepState j s) c).toOption.map (· * (s.volumeAt c : Int) / 2 ^ s.cfg.volFrac)).getD 0 := by
  unfold levelAt
  cases amplitude (stepState j s) c <;> rfl

theorem levelAt_retimed (c j : Nat) : levelAt (s.retimed time last out) c j = levelAt s c j := by
  rw [levelAt_eq_toOption, levelAt_eq_toOption, stepState_retimed, amplitude_retimed]
  rfl

/-! ### The rest of a course -/

theorem stepState_add (i j : Nat) : stepState (i + j) s = stepState j (stepState i s) := by
  induction i generalizing s with
  | zero => rw [Nat.zero_add]; rfl
  | succ i ih => rw [Nat.succ_add, stepState, ih]; rfl

/-- The level of a later step is that step's level from a later state. -/
theorem levelAt_add (c i j : Nat) : levelAt s c (i + j) = levelAt (stepState i s) c j := by
  obtain ⟨hA, -, -⟩ := stepState_same i s
  rw [levelAt, levelAt, stepState_add, hA.cfg, State.volumeAt, State.volumeAt, hA.volume]

end

/-- `t` is where a chunk of `i` steps from `s` ends: the state of the course, `w` earlier, with the levels emitted last (R270). -/
structure ChunkAfter (s t : State) (i w : Nat) : Prop where
  course : t = (stepState i s).retimed t.time t.last t.out
  time : t.time + w = s.time + i * s.period
  levels : ∀ c < s.nch, t.lastAt c = levelBefore s c i
  otherLevels : ∀ c < s.cfg.maxChannels, s.nch ≤ c → t.lastAt c = s.lastAt c

/-- END leaves such a state, by the RUN of the same target. -/
theorem chunkAfter_of_run {s r : State} {i w : Nat} (hn : s.nch ≤ s.cfg.maxChannels)
    (hr : r = { stepState i s with last := r.last, out := r.out }) (hw : w ≤ s.time + i * s.period)
    (hlast : ∀ c < s.cfg.maxChannels, r.lastAt c = if c < s.nch then levelBefore s c i else s.lastAt c) :
    ChunkAfter s { r with time := r.time - w } i w where
  course := by
    rw [hr]
    rfl
  time := by
    have htime : r.time = s.time + i * s.period := by rw [hr]; exact (stepState_same i s).2.2
    simp only
    omega
  levels c hc := (hlast c (hc.trans_le hn)).trans (if_pos hc)
  otherLevels c hc hcn := (hlast c hc).trans (if_neg (Nat.not_lt.2 hcn))

section
variable {s t : State} {i w : Nat} (h : ChunkAfter s t i w)
include h

theorem ChunkAfter.same : SameAttributes s t ∧ t.pending = s.pending := by
  obtain ⟨hA, hP, -⟩ := stepState_same i s
  rw [h.course]
  exact ⟨hA.trans' (by constructor <;> rfl), hP.pending⟩

theorem ChunkAfter.stepState_eq (j : Nat) :
    stepState j t = (stepState (i + j) s).retimed (t.time + j * s.period) t.last t.out := by
  conv_lhs => rw [h.course]
  rw [stepState_retimed, (stepState_same i s).1.period, stepState_add]

theorem ChunkAfter.levelAt_eq (c j : Nat) : levelAt t c j = levelAt s c (i + j) := by
  conv_lhs => rw [h.course]
  rw [levelAt_retimed, levelAt_add]

theorem ChunkAfter.levelBefore_eq {c : Nat} (hc : c < s.nch) (j : Nat) : levelBefore t c j = levelBefore s c (i + j) := by
  cases j with
  | zero => exact h.levels c hc
  | succ j => exact h.levelAt_eq c j

theorem ChunkAfter.noRequest {j : Nat} (hreq : s.NoRequestBefore (i + j)) : t.NoRequestBefore j := by
  intro n hn
  rw [h.stepState_eq n]
  exact advance_retimed_noRequest _ _ _ _ (hreq (i + n) (Nat.add_lt_add_left hn i))

/-- The time of a step is `w` later without the shift (R270). -/
theorem ChunkAfter.stepTime (j : Nat) : s.time + (i + j) * s.period = t.time + j * s.period + w := by
  have := h.time
  rw [Nat.add_mul]
  omega

/-- The steps due in the second chunk are the rest of those due in the whole span (R254). -/
theorem ChunkAfter.stepsDue_eq (hper : 1 ≤ s.period) {b : Nat} (hw : w ≤ b) (hi : i ≤ stepsDue s b) :
    stepsDue s b = i + stepsDue t (b - w) := by
  have hsame : t.period = s.period := h.same.1.period
  have hle : ∀ n, stepsDue t (b - w) ≤ n ↔ stepsDue s b ≤ i + n := fun n => by
    rw [stepsDue_le_iff (by rwa [hsame]), stepsDue_le_iff hper, hsame, h.stepTime]
    omega
  have henough := (hle (stepsDue t (b - w))).1 le_rfl
  have hneeded := (hle (stepsDue s b - i)).2 (by omega)
  omega

/-- The whole span's transactions are those of the first chunk's steps, and then those of the second's, later by `w`. -/
theorem ChunkAfter.levelChanges_eq {c : Nat} (hc : c < s.nch) (j : Nat) :
    levelChanges s c (i + j) = levelChanges s c i ++ (levelChanges t c j).map (SinkTx.later w) := by
  obtain ⟨hA, -⟩ := h.same
  have hkind : t.txKind = s.txKind := by rw [State.txKind, State.txKind, hA.waveform, hA.cfg]
  induction j with
  | zero => simp [levelChanges]
  | succ j ih =>
    rw [← Nat.add_assoc, levelChanges_succ, levelChanges_succ, ih, h.levelAt_eq, h.levelBefore_eq hc, hkind, hA.period,
      h.stepTime]
    split <;> simp [SinkTx.later]

/-- The whole span's end is the second chunk's, but for the shift of the time. -/
theorem ChunkAfter.end_eq {u v : State} {j : Nat} (hu : u = { stepState j t with last := u.last, out := u.out })
    (hv : v = { stepState (i + j) s with last := v.last, out := v.out }) (hlast : u.last = v.last) :
    v = { u with time := u.time + w, out := v.out } := by
  have htime : (stepState (i + j) s).time = t.time + j * s.period + w := (stepState_same _ s).2.2.trans (h.stepTime j)
  rw [h.stepState_eq j] at hu
  rw [hv, hu, hlast]
  simp only [State.retimed, htime]

/-- After both chunks every level is what it is after the whole span. -/
theorem ChunkAfter.lastAt_eq {u v : State} {j : Nat}
    (hu : ∀ c < t.cfg.maxChannels, u.lastAt c = if c < t.nch then levelBefore t c j else t.lastAt c)
    (hv : ∀ c < s.cfg.maxChannels, v.lastAt c = if c < s.nch then levelBefore s c (i + j) else s.lastAt c) :
    ∀ c < s.cfg.maxChannels, u.lastAt c = v.lastAt c := by
  obtain ⟨hA, -⟩ := h.same
  rw [hA.cfg, hA.nch] at hu
  intro c hc
  rw [hu c hc, hv c hc]
  split
  case isTrue hn => exact h.levelBefore_eq hn j
  case isFalse hn => exact h.otherLevels c hc (Nat.le_of_not_lt hn)

end

/-! ### Two commands and one -/

/-- A command keeps the invariant. -/
theorem exec_inv {i : Instr} {s t : State} (hI : s.Inv) (h : exec i s = .next t) : t.Inv := by
  obtain ⟨u, es, rfl, hu⟩ := exec_performs i s t h
  exact emit_inv (hu.inv hI) es

/-- Levels are equal where they are equal channel by channel. -/
theorem last_eq_of_lastAt {u v : State} {n : Nat} (hu : u.last.length = n) (hv : v.last.length = n)
    (h : ∀ c < n, u.lastAt c = v.lastAt c) : u.last = v.last := by
  refine List.ext_getElem (hu.trans hv.symm) fun c h1 h2 => ?_
  simpa [State.lastAt, h1, h2] using h c (hu ▸ h1)

/-- The transactions of a channel's level changes are that channel's. -/
theorem channelOnly_levelChanges (s : State) (c d k : Nat) :
    channelOnly c (levelChanges s d k) = if d = c then levelChanges s d k else [] := by
  have hchan : ∀ tx ∈ levelChanges s d k, tx.channel = d := fun tx htx => by
    obtain ⟨j, -, hj⟩ := List.mem_filterMap.1 htx
    split at hj <;> cases hj
    rfl
  split
  case isTrue hd => exact List.filter_eq_self.2 fun tx htx => decide_eq_true ((hchan tx htx).trans hd)
  case isFalse hd => exact List.filter_eq_nil_iff.2 fun tx htx => by simpa [hchan tx htx] using hd

/-- One channel's part of transactions sent channel by channel (R257). -/
theorem channelOnly_passes (s : State) (c k n : Nat) :
    channelOnly c ((List.range n).flatMap fun d => levelChanges s d k) = if c < n then levelChanges s c k else [] := by
  have happend : ∀ xs ys, channelOnly c (xs ++ ys) = channelOnly c xs ++ channelOnly c ys := fun _ _ => List.filter_append ..
  induction n with
  | zero => rfl
  | succ n ih =>
    rw [List.range_succ, List.flatMap_append, happend, ih, List.flatMap_singleton, channelOnly_levelChanges]
    by_cases hn : n = c
    · subst hn
      simp
    · have hiff : c < n + 1 ↔ c < n := by omega
      simp [hn, hiff]

/-- The transactions of a RUN on one channel. -/
theorem channelOnly_run (s : State) (c k : Nat) (es : List PortEvent) (hes : sinkTxs es = []) :
    channelOnly c (sinkTxs (((List.range s.nch).flatMap fun d => levelChanges s d k).map .sink ++ es)) =
      if c < s.nch then levelChanges s c k else [] := by
  rw [sinkTxs_append, sinkTxs_map_sink, hes, List.append_nil, channelOnly_passes]

/-- Settles O47: END leaves the course's state, and the second chunk takes the rest of its steps. -/
theorem chunksDoNotMovePulses : Obligations.ChunksDoNotMovePulses := by
  intro s a b w k hI hd hatt hp hab hb hw hk hreq
  have hper := period_pos hI
  have hE : a ≤ s.cfg.maxEndTime := hab.trans hb
  have hwa : w ≤ a := hw ▸ Nat.div_mul_le_self a _
  have hreach : a ≤ s.time + stepsDue s a * s.period := (stepsDue_le_iff hper a _).1 le_rfl
  have hle : stepsDue s a ≤ stepsDue s b := (stepsDue_le_iff hper a _).2 (hab.trans ((stepsDue_le_iff hper b _).1 le_rfl))
  rw [stepsDue_eq_ceil hper] at hk
  subst hk
  have hreqa : s.NoRequestBefore (stepsDue s a) := fun j hj => hreq j (hj.trans_le hle)
  obtain ⟨v, hv, hveq, hvout, hvlast⟩ := runEmitsLevelChanges s b _ hI hd hatt hp hb (stepsDue_eq_ceil hper b).symm hreq
  obtain ⟨r, hr, hreq', hrout, hrlast⟩ := runEmitsLevelChanges s a _ hI hd hatt hp hE (stepsDue_eq_ceil hper a).symm hreqa
  have hend := exec_endChunk_of_run hI hd hatt hp hE hreqa hr
  rw [wholeSamples, ← hw] at hend
  have hchunk := chunkAfter_of_run hI.2.1.2 hreq' (hwa.trans hreach) hrlast
  have htI := exec_inv hI hend
  have htout : ({ r with time := r.time - w } : State).out = r.out := rfl
  generalize ({ r with time := r.time - w } : State) = t at hend hchunk htI htout
  obtain ⟨hA, htp⟩ := hchunk.same
  have hdue := hchunk.stepsDue_eq hper (hwa.trans hab) hle
  rw [hdue] at hveq hvlast hvout hreq
  obtain ⟨u, hu, hueq, huout, hulast⟩ := runEmitsLevelChanges t (b - w) _ htI (HostDuty.of_same hA hd) (hA.attached.trans hatt)
    (htp.trans hp) (by rw [hA.cfg]; omega) (stepsDue_eq_ceil (period_pos htI) _).symm (hchunk.noRequest hreq)
  have hlast : u.last = v.last := by
    have hlen : u.last.length = u.cfg.maxChannels := (exec_inv htI hu).1.2.2
    have hucfg : u.cfg = s.cfg := by rw [hueq]; exact (stepState_same _ t).1.cfg.trans hA.cfg
    have hvcfg : v.cfg = s.cfg := by rw [hveq]; exact (stepState_same _ s).1.cfg
    exact last_eq_of_lastAt (hucfg ▸ hlen) (hvcfg ▸ (exec_inv hI hv).1.2.2) (hchunk.lastAt_eq hulast hvlast)
  refine ⟨t, u, v, _, _, _, hend, hu, hv, htout.trans (hrout.trans (List.append_assoc ..)),
    huout.trans (List.append_assoc ..), hvout.trans (List.append_assoc ..), hchunk.end_eq hueq hveq hlast, fun c => ?_⟩
  rw [channelOnly_run s c _ _ rfl, channelOnly_run s c _ _ rfl, channelOnly_run t c _ _ rfl, hA.nch]
  split
  case isTrue hc => exact hchunk.levelChanges_eq hc _
  case isFalse => rfl

end Sys2Proof.Machine
end

section
/-! SUPPORT. Playback in its range (42_sample_playback.md): the restart (R302), the three policies (R308 to R311) and one
advance (R306, R307). -/

namespace Sys2Proof.Machine

/-! ### Restart (R302) -/

/-- The position of the last frame (R302). -/
theorem rangeHi_sub_one (s : State) : rangeHi s - s.cfg.one = ((s.sampleEnd : Int) - 1) * 2 ^ s.cfg.frac := by
  rw [rangeHi_eq, sub_mul, one_mul]
  push_cast
  rfl

/-- Settles O29: `restart_eq` where each case's conditions hold. -/
theorem restartPlacesPlayback : Obligations.RestartPlacesPlayback := by
  intro s
  refine ⟨fun hnone => ?_, fun hptr hempty => ?_, fun hptr hrange hforward => ?_, fun hptr hrange hbackward => ?_⟩ <;>
    rw [restart_eq]
  · simp [hnone, rangeLo_eq]
  · simp [hptr, hempty, rangeLo_eq]
  · simp [hrange, hforward, rangeLo_eq]
  · simp only [hptr, Nat.not_le.2 hrange, Int.not_le.2 hbackward, or_self, and_false, decide_false, if_false,
      rangeHi_sub_one]

/-! ### The policies (R308 to R311) -/

theorem flip_flip (d : Dir) : d.flip.flip = d := by cases d <;> rfl

/-- A position and direction reached by reflections of `p` (R310): after an even number of them moved by a multiple of twice
the length, after an odd number mirrored about the end and moved so. -/
abbrev Reflected (O E p : Int) (d : Dir) (q : Int) (d' : Dir) : Prop :=
  d' = d ∧ 2 * (E - O) ∣ (q - p) ∨ d' = d.flip ∧ 2 * (E - O) ∣ (q - (2 * E - 1 - p))

/-- One more reflection, of `p` to `p'`: the mirror image about the end, or a multiple of twice the length off it. -/
theorem Reflected.of_mirrored {O E p p' q : Int} {d d' : Dir} (hp' : 2 * (E - O) ∣ (2 * E - 1 - p - p'))
    (h : Reflected O E p' d.flip q d') : Reflected O E p d q d' := by
  rcases h with ⟨hd, hq⟩ | ⟨hd, hq⟩
  · refine .inr ⟨hd, ?_⟩
    have hsum := dvd_sub hq hp'
    rwa [show q - p' - (2 * E - 1 - p - p') = q - (2 * E - 1 - p) by ring] at hsum
  · refine .inl ⟨hd.trans (flip_flip d), ?_⟩
    have hsum := dvd_add hq hp'
    rwa [show q - (2 * E - 1 - p') + (2 * E - 1 - p - p') = q - p by ring] at hsum

/-- However often the loop of R310 reflects, it ends at such a position. -/
theorem reflect_reflected (O E : Int) (k : Nat) (p : Int) (d : Dir) :
    Reflected O E p d (reflect O E k p d).1 (reflect O E k p d).2 := by
  induction k generalizing p d with
  | zero => exact .inl ⟨rfl, by simp [reflect]⟩
  | succ k ih =>
    unfold reflect
    split_ifs
    · exact .of_mirrored (by simp) (ih (2 * E - 1 - p) d.flip)
    · refine .of_mirrored ?_ (ih (2 * O - 1 - p) d.flip)
      rw [show 2 * E - 1 - p - (2 * O - 1 - p) = 2 * (E - O) by ring]
    · exact .inl ⟨rfl, by simp⟩

/-- Settles O48: `applyPolicy_spec` puts the position in the range, and the lemmas above say how it came there. -/
theorem policiesPlaceThePosition : Obligations.PoliciesPlaceThePosition := by
  rintro s _ _ hrange rfl rfl
  rw [← rangeLo_eq, ← rangeHi_eq]
  have hinside : ∀ p ≠ .none, rangeLo s ≤ (applyPolicy p s).pos ∧ (applyPolicy p s).pos < rangeHi s := fun p hp => by
    rcases applyPolicy_spec p s hrange with ⟨hnone, -⟩ | ⟨-, -, hin⟩
    · exact absurd hnone hp
    · exact hin
  obtain ⟨hlo, hhi⟩ := hinside .repeats (by simp)
  obtain ⟨hlo', hhi'⟩ := hinside .palindrome (by simp)
  refine ⟨rfl, ⟨_, rfl, hlo, hhi, ?_⟩, _, _, rfl, hlo', hhi', reflect_reflected ..⟩
  have hmoved := Int.dvd_sub_self_of_emod_eq (a := s.pos - rangeLo s) (b := rangeHi s - rangeLo s) rfl
  rw [show rangeLo s + (s.pos - rangeLo s) % (rangeHi s - rangeLo s) - s.pos
    = (s.pos - rangeLo s) % (rangeHi s - rangeLo s) - (s.pos - rangeLo s) by ring]
  exact hmoved

/-! ### One advance (R306, R307) -/

/-- The effective step (R306). -/
theorem sign_mul (d : Dir) (v : Int) : d.sign * v = if d = .forward then v else -v := by cases d <;> simp [Dir.sign]

theorem sampleAdvance_halted {s : State} (h : s.halted = true) : sampleAdvance s = .done s := if_pos h

section
variable {s : State} (h : s.halted = false)
include h

theorem sampleAdvance_inside (hlo : rangeLo s ≤ (movePos s).pos) (hhi : (movePos s).pos < rangeHi s) :
    sampleAdvance s = .done (movePos s) := by
  have hin : ¬ outOfRange (movePos s) = true := fun hout => by
    rcases (outOfRange_iff _).1 hout with hge | hlt
    · exact absurd hhi (not_lt.2 hge)
    · exact absurd hlo (not_le.2 hlt)
  rw [sampleAdvance, if_neg (by simp [h]), if_neg hin]

theorem sampleAdvance_outside (hout : (movePos s).pos < rangeLo s ∨ rangeHi s ≤ (movePos s).pos) :
    sampleAdvance s = boundary (movePos s) := by
  rw [sampleAdvance, if_neg (by simp [h]), if_pos ((outOfRange_iff _).2 hout.symm)]

end

/-- With the callback on the host is asked about the boundary that was crossed (R307). -/
theorem boundary_callback {s : State} (h : s.sampleCallback = true) : boundary s = .request s (crossedEdge s) := if_pos h

/-- With the callback off `sampleRepeat` decides (R307). -/
theorem boundary_noCallback {s : State} (h : s.sampleCallback = false) : boundary s = .done (applyPolicy s.sampleRepeat s) :=
  if_neg (by simp [h])

/-- Settles O49: halted, inside and outside the range, and there by the callback and the edge. -/
theorem sampleAdvanceMovesThePosition : Obligations.SampleAdvanceMovesThePosition := by
  rintro s _ rfl hw
  rw [← sign_mul, advance_sample s hw]
  refine ⟨sampleAdvance_halted, fun hh hlo hhi => sampleAdvance_inside hh hlo hhi, fun hh hout hcb => ?_,
    fun hh hend hcb => ?_, fun hh hstart hnotEnd hcb => ?_⟩
  · exact (sampleAdvance_outside hh hout).trans (boundary_noCallback hcb)
  · rw [sampleAdvance_outside hh (.inr hend), boundary_callback (s := movePos s) hcb,
      show crossedEdge (movePos s) = .atEnd from if_pos hend]
    rfl
  · rw [sampleAdvance_outside hh (.inl hstart), boundary_callback (s := movePos s) hcb,
      show crossedEdge (movePos s) = .atStart from if_neg (not_le.2 hnotEnd)]
    rfl

end Sys2Proof.Machine
end

section
/-! SUPPORT. The step loop up to a boundary request (41_pulse_generation.md R251, R254, 42_sample_playback.md R320): the steps
before it are single steps, and then the loop ends or waits. Halted playback (R305) and the entry into the wait
(60_exceptions.md R607) by it. -/

namespace Sys2Proof.Machine

/-! ### One step, where every channel can be read -/

section
variable {s : State} {as : List Int} (has : amplitudesBelow s s.nch = .ok as)
include has

/-- A step that raises no request is the single step, and it records what `recordAt` says. -/
theorem takeStep_of_readable (hreq : ∀ t e, advance s ≠ .request t e) :
    takeStep s = .taken (advanced s) (recordAt s 0) := by
  unfold takeStep advanced
  rw [has, amplitudesBelow_eq_record has]
  cases hv : advance s with
  | done t => simp [recordAt]
  | request t e => exact absurd hv (hreq t e)

/-- A step that raises one keeps what it would have recorded (R320 item 1). -/
theorem takeStep_request {t : State} {e : Edge} (hadv : advance s = .request t e) :
    takeStep s = .request t ⟨(recordAt s 0).time, (recordAt s 0).amps, e⟩ := by
  unfold takeStep
  rw [has, amplitudesBelow_eq_record has, hadv]
  simp [recordAt]

end

/-! ### The steps before a request -/

theorem stepState_succ (j : Nat) (s : State) : stepState (j + 1) s = advanced (stepState j s) := stepState_add s j 1

/-- The record of a later step is the first one of a later state. -/
theorem recordAt_stepState (j : Nat) (s : State) : recordAt (stepState j s) 0 = recordAt s j := by
  obtain ⟨hA, -, ht⟩ := stepState_same j s
  simp [recordAt, hA.nch, ht, stepState]

/-- The first `m` steps are taken whole. -/
def State.TakesBefore (s : State) (m : Nat) : Prop :=
  ∀ j < m, takeStep (stepState j s) = .taken (stepState (j + 1) s) (recordAt s j)

theorem State.TakesBefore.succ {s : State} {m : Nat} (h : s.TakesBefore (m + 1)) : (advanced s).TakesBefore m := by
  intro j hj
  rw [← recordAt_succ]
  exact h (j + 1) (Nat.succ_lt_succ hj)

/-- The loop takes such steps one by one, and goes on from there. -/
theorem runSteps_takes {s : State} {endTime m : Nat} (htakes : s.TakesBefore m)
    (hdue : ∀ j < m, s.time + j * s.period < endTime) (k : Nat) (steps : List StepRecord) :
    runSteps endTime (m + k) s steps = runSteps endTime k (stepState m s) (steps ++ recordsBefore s m) := by
  induction m generalizing s steps with
  | zero => simp [stepState, recordsBefore]
  | succ m ih =>
    obtain ⟨hA, -, htime⟩ := advanced_same s
    have hnow : s.time < endTime := by simpa using hdue 0 (Nat.succ_pos m)
    have hlater : ∀ j < m, (advanced s).time + j * (advanced s).period < endTime := fun j hj => by
      have := hdue (j + 1) (Nat.succ_lt_succ hj)
      rw [Nat.succ_mul] at this
      rw [htime, hA.period]
      omega
    have hfirst : takeStep s = .taken (advanced s) (recordAt s 0) := htakes 0 (Nat.succ_pos m)
    rw [Nat.succ_add, runSteps, if_pos hnow, hfirst, recordsBefore_succ]
    simp only [ih htakes.succ hlater, stepState, List.append_assoc, List.singleton_append]

/-- R254: a step due is before the target. -/
theorem stepTime_lt_of_due {s : State} (hper : 1 ≤ s.period) {e j : Nat} (hj : j < stepsDue s e) :
    s.time + j * s.period < e := by
  by_contra hc
  exact absurd ((stepsDue_le_iff hper e j).2 (Nat.le_of_not_lt hc)) (Nat.not_le.2 hj)

section
variable {s : State} {m endTime : Nat} (hI : s.Inv) (hd : s.HostDuty) (hp : s.pending = false)
  (hE : endTime ≤ s.cfg.maxEndTime) (hreq : s.NoRequestBefore m)
include hI hd hp hE hreq

/-- The states of the course are legal. -/
theorem stepState_inv (hdue : ∀ j < m, s.time + j * s.period < endTime) : (stepState m s).Inv := by
  induction m with
  | zero => exact hI
  | succ m ih =>
    have hprev := ih (fun j hj => hreq j (hj.trans m.lt_succ_self)) fun j hj => hdue j (hj.trans m.lt_succ_self)
    obtain ⟨hA, hP, htime⟩ := stepState_same m s
    rw [stepState_succ]
    refine advanced_inv hprev (HostDuty.of_same hA hd) (hP.pending.trans hp) ?_ (hreq m m.lt_succ_self)
    rw [htime, hA.cfg]
    exact (hdue m m.lt_succ_self).trans_le hE

/-- In a legal state under the host's duty every step before a request is taken whole. -/
theorem takesBefore_of_noRequest (hdue : ∀ j < m, s.time + j * s.period < endTime) : s.TakesBefore m := fun j hj => by
  have hjI : (stepState j s).Inv :=
    stepState_inv hI hd hp hE (fun i hi => hreq i (hi.trans hj)) fun i hi => hdue i (hi.trans hj)
  obtain ⟨hA, hP, -⟩ := stepState_same j s
  rw [takeStep_noRequest hjI (HostDuty.of_same hA hd) (hP.pending.trans hp) (hreq j hj), recordAt_stepState, stepState_succ]

/-- Where the step after `m` whole ones raises a request, the command waits with those steps and the one in progress (R320). -/
theorem continueCommand_suspends {kind : SuspKind} {v : State} {edge : Edge} (steps : List StepRecord)
    (hm : m < stepsDue s endTime) (hadv : advance (stepState m s) = .request v edge) :
    continueCommand kind endTime steps s =
      .next (enterBoundaryWait kind endTime (steps ++ recordsBefore s m)
        ⟨(recordAt s m).time, (recordAt s m).amps, edge⟩ v) := by
  have hdue : ∀ j < m, s.time + j * s.period < endTime := fun j hj => stepTime_lt_of_due (period_pos hI) (hj.trans hm)
  obtain ⟨r, hr⟩ := Nat.exists_eq_add_of_lt hm
  obtain ⟨hA, hP, htime⟩ := stepState_same m s
  have hnow : (stepState m s).time < endTime := htime ▸ stepTime_lt_of_due (period_pos hI) hm
  obtain ⟨as, has⟩ := amplitudesBelow_total (stepState_inv hI hd hp hE hreq hdue) (HostDuty.of_same hA hd)
    (hP.pending.trans hp) (stepState m s).nch
  have hloop := runSteps_takes (takesBefore_of_noRequest hI hd hp hE hreq hdue) hdue (r + 1) steps
  rw [runSteps, if_pos hnow, takeStep_request has hadv, recordAt_stepState] at hloop
  rw [continueCommand, hr, add_assoc, hloop]

end

/-- Where none of the steps due raises one, the command completes (R257, R270). -/
theorem continueCommand_completes {s : State} {endTime : Nat} (hI : s.Inv) (hd : s.HostDuty) (hp : s.pending = false)
    (hE : endTime ≤ s.cfg.maxEndTime) (hreq : s.NoRequestBefore (stepsDue s endTime)) (kind : SuspKind)
    (steps : List StepRecord) :
    continueCommand kind endTime steps s =
      succeed (applyShift kind
        (emitSteps (steps ++ recordsBefore s (stepsDue s endTime)) (stepState (stepsDue s endTime) s))) := by
  rw [continueCommand, runSteps_noRequest hI hd hp hE rfl hreq]

/-! ### Halted playback (R305) -/

section
variable {s : State} (hw : s.waveform = .sample) (hh : s.halted = true)
include hw hh

/-- A halted step moves nothing but the time (R306). -/
theorem advance_halted : advance s = .done s := (advance_sample s hw).trans (sampleAdvance_halted hh)

theorem stepState_halted (j : Nat) :
    (stepState j s).waveform = .sample ∧ (stepState j s).halted = true ∧ (stepState j s).pos = s.pos ∧
      (stepState j s).dir = s.dir := by
  induction j with
  | zero => exact ⟨hw, hh, rfl, rfl⟩
  | succ j ih =>
    obtain ⟨hw', hh', hpos, hdir⟩ := ih
    rw [stepState_succ, advanced, advance_halted hw' hh']
    exact ⟨hw', hh', hpos, hdir⟩

theorem noRequestBefore_halted (m : Nat) : s.NoRequestBefore m := fun j _ t e => by
  obtain ⟨hw', hh', -⟩ := stepState_halted hw hh j
  simp [advance_halted hw' hh']

/-- It is silent (R304). -/
theorem amplitude_halted (j c : Nat) : amplitude (stepState j s) c = .ok 0 := by
  obtain ⟨hw', hh', -⟩ := stepState_halted hw hh j
  rw [amplitude_sample c hw', sampleAmp_halted hh']

theorem levelAt_halted (c j : Nat) : levelAt s c j = 0 := by simp [levelAt, amplitude_halted hw hh]

/-- It reads no frame, so it is taken whole whatever the host has done to the object (R605). -/
theorem takesBefore_halted (m : Nat) : s.TakesBefore m := fun j _ => by
  cases has : amplitudesBelow (stepState j s) (stepState j s).nch with
  | ok as =>
    rw [takeStep_of_readable has (noRequestBefore_halted hw hh (j + 1) j j.lt_succ_self), recordAt_stepState, stepState_succ]
  | error f =>
    obtain ⟨c, -, herr⟩ := amplitudesBelow_error _ _ f has
    rw [amplitude_halted hw hh] at herr
    cases herr

end

/-- Settles O45: the loop takes every step due, and each is silent and leaves playback where it is. -/
theorem haltedPlaybackIsSilent : Obligations.HaltedPlaybackIsSilent := by
  intro s e hI hatt hp hw hh hdue hE
  have hper := period_pos hI
  have hloop := runSteps_takes (takesBefore_halted hw hh (stepsDue s e)) (fun j => stepTime_lt_of_due hper) 0 []
  have hexec : exec (.run e) s =
      succeed (emitSteps (recordsBefore s (stepsDue s e)) (stepState (stepsDue s e) s)) := by
    rw [exec_run hatt hp hE, continueCommand, ← Nat.add_zero (stepsDue s e), hloop]
    rfl
  have hreach := (stepsDue_le_iff hper e _).1 le_rfl
  have hover := stepsDue_overshoot hper (Nat.lt_add_right s.period hdue)
  refine ⟨_, hexec, ?_, fun c hc => ?_, ?_⟩
  · rw [respond_out, emitSteps_stepState_out, stepsDue_pos s e hper hdue,
      flatMap_levelChanges_of_silent fun c _ => levelAt_halted hw hh c]
    rfl
  · refine (emitSteps_stepState_lastAt s _ (by rw [hI.1.2.2]; exact hc.trans_le hI.2.1.2)).trans ?_
    rw [if_pos hc, stepsDue_pos s e hper hdue]
    exact levelAt_halted hw hh c _
  · obtain ⟨-, hh', hpos, hdir⟩ := stepState_halted hw hh (stepsDue s e)
    have htime := (stepState_same (stepsDue s e) s).2.2
    rw [emitSteps_frame]
    exact ⟨hpos, hdir, hh', hreach.trans_eq htime.symm, htime.trans_lt hover⟩

/-! ### Entry into the boundary wait (R320, R607) -/

/-- R306: the whole samples of a position, as the statements give them. -/
theorem asr_eq_floor (a : Int) (k : Nat) : asr a k = Int.floor ((a : ℚ) / 2 ^ k) := by
  have h := Rat.floor_intCast_div_natCast a (2 ^ k)
  push_cast at h
  exact h.symm

/-- The state with playback moved to a position, at a time. -/
def State.playedTo (s : State) (pos : Int) (time : Nat) : State := { s with pos := pos, time := time }

/-- The boundary that a position has crossed (R307). -/
theorem crossedEdge_eq_atEnd (s : State) : crossedEdge s = .atEnd ↔ rangeHi s ≤ s.pos := by simp [crossedEdge]

section
variable {s : State} (hw : s.waveform = .sample) (hh : s.halted = false)
include hw hh

/-- Playback that stays inside the range moves by the effective step (R306). -/
theorem advance_playedTo_inside {pos : Int} {time : Nat} (hlo : rangeLo s ≤ pos + s.dir.sign * s.samplePeriod)
    (hhi : pos + s.dir.sign * s.samplePeriod < rangeHi s) :
    advance (s.playedTo pos time) = .done (s.playedTo (pos + s.dir.sign * s.samplePeriod) time) :=
  (advance_sample (s.playedTo pos time) hw).trans (sampleAdvance_inside (s := s.playedTo pos time) hh hlo hhi)

/-- With the callback on, playback that leaves it asks the host (R307). -/
theorem advance_playedTo_outside (hcb : s.sampleCallback = true) {pos : Int} {time : Nat}
    (hout : pos + s.dir.sign * s.samplePeriod < rangeLo s ∨ rangeHi s ≤ pos + s.dir.sign * s.samplePeriod) :
    advance (s.playedTo pos time) =
      .request (s.playedTo (pos + s.dir.sign * s.samplePeriod) time)
        (crossedEdge (s.playedTo (pos + s.dir.sign * s.samplePeriod) time)) :=
  (advance_sample (s.playedTo pos time) hw).trans
    ((sampleAdvance_outside (s := s.playedTo pos time) hh hout).trans (boundary_callback hcb))

variable {p : Nat → Int} (hstart : p 0 = s.pos) (hmove : ∀ j, p (j + 1) = p j + s.dir.sign * s.samplePeriod) {k : Nat}
  (hin : ∀ j ≤ k, rangeLo s ≤ p j ∧ p j < rangeHi s)
include hstart hmove hin

theorem stepState_inside : ∀ j ≤ k, stepState j s = s.playedTo (p j) (s.time + j * s.period) := by
  intro j hj
  induction j with
  | zero => simp [stepState, State.playedTo, hstart]
  | succ j ih =>
    obtain ⟨hlo, hhi⟩ := hin (j + 1) hj
    rw [hmove] at hlo hhi
    rw [stepState_succ, ih (Nat.le_of_succ_le hj), advanced, advance_playedTo_inside hw hh hlo hhi, hmove, Nat.succ_mul,
      ← add_assoc]
    rfl

theorem noRequestBefore_inside : s.NoRequestBefore k := fun j hj t e => by
  obtain ⟨hlo, hhi⟩ := hin (j + 1) hj
  rw [hmove] at hlo hhi
  simp [stepState_inside hw hh hstart hmove hin j hj.le, advance_playedTo_inside hw hh hlo hhi]

end

/-- The amplitudes of a step's record, channel by channel. -/
theorem recordAt_getD {s : State} {j c : Nat} (hI : (stepState j s).Inv) (hd : s.HostDuty) (hp : s.pending = false)
    (hc : c < s.nch) : amplitude (stepState j s) c = .ok ((recordAt s j).amps.getD c 0) := by
  obtain ⟨hA, hP, -⟩ := stepState_same j s
  obtain ⟨a, ha⟩ := amplitude_ok hI (HostDuty.of_same hA hd) (hP.pending.trans hp) c
  rw [ha, List.getD_eq_getElem?_getD, recordAt_amps hc ha]
  rfl

/-- Settles O50: the `k` steps are taken inside the range, and the next one asks the host. -/
theorem boundaryRequestSuspends : Obligations.BoundaryRequestSuspends := by
  intro s e k p hI hd hatt hp hw hh hcb hpos hin hout hbefore hE
  simp only [← sign_mul] at hpos
  have hstart : p 0 = s.pos := by simp [hpos]
  have hmove : ∀ j, p (j + 1) = p j + s.dir.sign * s.samplePeriod := fun j => by
    rw [hpos, hpos]
    push_cast
    ring
  have hreq : s.NoRequestBefore k := noRequestBefore_inside hw hh hstart hmove hin
  have hstate := stepState_inside hw hh hstart hmove hin
  have hk : k < stepsDue s e :=
    Nat.lt_of_not_le fun hle => absurd ((stepsDue_le_iff (period_pos hI) e k).1 hle) (not_le.2 hbefore)
  have hadv : advance (stepState k s) = .request (s.playedTo (p (k + 1)) (s.time + k * s.period))
      (crossedEdge (s.playedTo (p (k + 1)) (s.time + k * s.period))) := by
    rw [hstate k le_rfl, hmove]
    exact advance_playedTo_outside hw hh hcb (by rwa [← hmove])
  have hamps : ∀ j ≤ k, ∀ c < s.nch, amplitude { s with pos := p j } c = .ok ((recordAt s j).amps.getD c 0) := by
    intro j hj c hc
    have hjI : (stepState j s).Inv := stepState_inv hI hd hp hE (fun i hi => hreq i (hi.trans_le hj))
      fun i hi => stepTime_lt_of_due (period_pos hI) ((hi.trans_le hj).trans hk)
    rw [← recordAt_getD hjI hd hp hc, hstate j hj]
    rfl
  refine ⟨recordsBefore s k, (recordAt s k).amps, _, crossedEdge_eq_atEnd (s.playedTo (p (k + 1)) (s.time + k * s.period)),
    by simp [recordsBefore], by simp [recordAt], fun j hj => ?_, hamps k le_rfl, fun i kind hi => ?_⟩
  · exact ⟨recordAt s j, by simp [recordsBefore, hj], rfl, by simp [recordAt], hamps j hj.le⟩
  · have hexec : exec i s = continueCommand kind e [] s := by
      rcases hi with ⟨rfl, rfl⟩ | ⟨rfl, rfl⟩
      · exact exec_run hatt hp hE
      · exact exec_endChunk hatt hp hE
    rw [hexec, continueCommand_suspends hI hd hp hE hreq [] hk hadv, ← asr_eq_floor]
    rfl

end Sys2Proof.Machine
end

section
/-! SUPPORT. The return from the boundary wait (42_sample_playback.md R322, R323): the resumed command is one that goes on
from the state with the policy applied, with the reply's response on the output ports and the recorded steps kept
(60_exceptions.md R608). -/

namespace Sys2Proof.Machine

/-! ### The course does not depend on the outputs -/

/-- The state with these outputs. -/
def State.withOut (s : State) (out : List PortEvent) : State := { s with out := out }

theorem withOut_eq_retimed (s : State) (out : List PortEvent) : s.withOut out = s.retimed s.time s.last out := rfl

section
variable (s : State) (out : List PortEvent)

theorem stepState_withOut (j : Nat) : stepState j (s.withOut out) = (stepState j s).withOut out := by
  obtain ⟨-, hP, htime⟩ := stepState_same j s
  rw [withOut_eq_retimed, stepState_retimed, ← htime, ← hP.last]
  rfl

theorem advance_withOut_request {s v : State} {e : Edge} (h : advance s = .request v e) :
    advance (s.withOut out) = .request (v.withOut out) e := by
  rw [withOut_eq_retimed, advance_retimed, h]
  obtain ⟨-, -, -, rfl, -⟩ := advance_request s v e h
  rfl

theorem noRequestBefore_withOut {s : State} {m : Nat} (h : s.NoRequestBefore m) : (s.withOut out).NoRequestBefore m :=
  fun j hj => by
    rw [stepState_withOut]
    exact advance_retimed_noRequest _ _ _ _ (h j hj)

/-- A record holds 0 where there is no amplitude. -/
theorem recordAt_amps_eq (j : Nat) :
    (recordAt s j).amps = (List.range s.nch).map fun c => (amplitude (stepState j s) c).toOption.getD 0 := by
  refine List.map_congr_left fun c _ => ?_
  cases amplitude (stepState j s) c <;> rfl

theorem recordAt_withOut (j : Nat) : recordAt (s.withOut out) j = recordAt s j := by
  have hamps : (recordAt (s.withOut out) j).amps = (recordAt s j).amps := by
    rw [recordAt_amps_eq, recordAt_amps_eq, stepState_withOut]
    exact List.map_congr_left fun c _ => congrArg (Option.getD · 0) (amplitude_retimed _ _ _ _ c)
  exact congrArg (StepRecord.mk _) hamps

theorem recordsBefore_withOut (k : Nat) : recordsBefore (s.withOut out) k = recordsBefore s k :=
  List.map_congr_left fun j _ => recordAt_withOut s out j

end

/-! ### The transactions of recorded steps -/

section
variable {s : State} {c j : Nat} {rs : List StepRecord}

theorem recordLevel_snoc (r : StepRecord) (hj : j < rs.length) : recordLevel s c (rs ++ [r]) j = recordLevel s c rs j := by
  simp [recordLevel, List.getElem?_append_left hj]

theorem recordBefore_snoc (r : StepRecord) (hj : j ≤ rs.length) :
    recordBefore s c (rs ++ [r]) j = recordBefore s c rs j := by
  cases j with
  | zero => rfl
  | succ j => exact recordLevel_snoc r hj

/-- The level of the last recorded step. -/
theorem recordLevel_last (r : StepRecord) : recordLevel s c (rs ++ [r]) rs.length = levelOf s c r := by
  simp [recordLevel, levelOf, level, asr]

/-- The level a channel has emitted last is the last recorded step's (R256). -/
theorem channelLast_eq_recordBefore (s : State) (c : Nat) (rs : List StepRecord) :
    channelLast s c rs (s.lastAt c) = recordBefore s c rs rs.length := by
  cases rs using List.reverseRecOn with
  | nil => rfl
  | append_singleton rs r =>
    rw [channelLast_snoc, List.length_append]
    exact (recordLevel_last r).symm

/-- One more recorded step sends its change of level (R256). -/
theorem recordChanges_snoc (s : State) (c : Nat) (rs : List StepRecord) (r : StepRecord) :
    recordChanges s c (rs ++ [r]) = recordChanges s c rs ++ channelTxs s c [r] (recordBefore s c rs rs.length) := by
  unfold recordChanges
  rw [List.length_append, List.length_singleton, List.range_succ, List.filterMap_append]
  congr 1
  · refine List.filterMap_congr fun j hj => ?_
    have hlt : j < rs.length := List.mem_range.1 hj
    rw [recordLevel_snoc r hlt, recordBefore_snoc r hlt.le, List.getElem?_append_left hlt]
  · simp only [List.filterMap_cons, List.filterMap_nil, recordLevel_last, recordBefore_snoc r le_rfl, channelTxs,
      sinkKind_eq_txKind, List.append_nil, sub_ne_zero, ite_not]
    split <;> simp_all

/-- The transactions of recorded steps are the changes of level over them (R256, R257). -/
theorem channelTxs_eq_recordChanges (s : State) (c : Nat) (rs : List StepRecord) :
    channelTxs s c rs (s.lastAt c) = recordChanges s c rs := by
  induction rs using List.reverseRecOn with
  | nil => rfl
  | append_singleton rs r ih => rw [channelTxs_snoc, ih, channelLast_eq_recordBefore, recordChanges_snoc]

end

/-! ### The end of a command -/

theorem applyShift_eq_shift (kind : SuspKind) (s : State) : applyShift kind s = { s with time := s.time - kind.shift } := by
  cases kind <;> rfl

/-- The end of a command: the emission of its recorded steps, END's shift, and the response (R257, R270). -/
def completed (kind : SuspKind) (rs : List StepRecord) (t : State) : State := (applyShift kind (emitSteps rs t)).respond .ok

/-- The end of a command writes `time`, `last` and the output ports and nothing else. -/
theorem completed_frame (kind : SuspKind) (rs : List StepRecord) (t : State) :
    completed kind rs t =
      { t with
        time := t.time - kind.shift
        last := (completed kind rs t).last
        out := (completed kind rs t).out } := by
  have hemit := emitSteps_frame rs t
  unfold completed
  rw [applyShift_eq_shift]
  generalize emitSteps rs t = u at hemit ⊢
  rw [hemit]
  rfl

section
variable {s t : State} (hA : SameAttributes s t) (hlast : t.last = s.last) (kind : SuspKind) (rs : List StepRecord)
include hA hlast

/-- What it sends, from a state with the attributes and the last levels of `s`. -/
theorem completed_out :
    (completed kind rs t).out =
      t.out ++ ((List.range s.nch).flatMap fun c => recordChanges s c rs).map .sink ++ [.response 0 none] := by
  have htxs : ∀ c ∈ List.range s.nch, channelTxs t c rs (t.lastAt c) = recordChanges s c rs := fun c _ => by
    rw [channelTxs_congr hA.cfg hA.volume hA.waveform, State.lastAt, hlast]
    exact channelTxs_eq_recordChanges s c rs
  rw [completed, applyShift_eq_shift, respond_out, emitSteps_out, hA.nch, List.flatMap_congr htxs]
  rfl

/-- The levels it leaves. -/
theorem completed_lastAt {c : Nat} (hc : c < s.last.length) :
    (completed kind rs t).lastAt c = if c < s.nch then recordBefore s c rs rs.length else s.lastAt c := by
  have hlastAt : t.lastAt c = s.lastAt c := by rw [State.lastAt, hlast]; rfl
  have hkeep : (completed kind rs t).lastAt c = (emitSteps rs t).lastAt c := by
    rw [completed, applyShift_eq_shift]
    rfl
  rw [hkeep, emitSteps_lastAt rs t c (by rwa [hlast]), hA.nch, hlastAt, channelLast_congr hA.cfg hA.volume,
    channelLast_eq_recordBefore]

end

/-! ### The resumed command (R320 item 4) -/

/-- The steps of a suspended command, with the one in progress. -/
def Susp.recorded (q : Susp) : List StepRecord := q.steps ++ [⟨q.cur.time, q.cur.amps⟩]

/-- The state from which a suspended command goes on: the policy applied, and the step's period added. -/
def State.resumed (s : State) (p : Policy) : State :=
  { applyPolicy p { s with pending := false, susp := none } with time := s.time + s.period }

theorem resumed_same (s : State) (p : Policy) : SameAttributes s (s.resumed p) := by
  rw [State.resumed, applyPolicy_frame]
  constructor <;> rfl

theorem resumed_last (s : State) (p : Policy) : (s.resumed p).last = s.last := by cases p <;> rfl

/-- The command goes on from that state, with the reply's response on the output ports. -/
theorem addPeriod_applyPolicy_leave (s : State) (p : Policy) :
    addPeriod (applyPolicy p (leaveBoundaryWait s)) = (s.resumed p).withOut (s.out ++ [.response 0 none]) := by
  cases p <;> rfl

theorem policyOfCode_code (p : Policy) : policyOfCode p.code = some p := by cases p <;> rfl

/-- A reply with a legal policy (R322). -/
theorem exec_boundaryReply_resumes {s : State} {q : Susp} (hp : s.pending = true) (hq : s.susp = some q) (p : Policy) :
    exec (.boundaryReply p.code) s =
      continueCommand q.kind q.endTime q.recorded ((s.resumed p).withOut (s.out ++ [.response 0 none])) := by
  show execBoundaryReply p.code s = _
  simp [execBoundaryReply, hp, hq, policyOfCode_code, resume, Susp.recorded, addPeriod_applyPolicy_leave]

section
variable {s : State} {q : Susp} (hI : s.Inv) (hd : s.HostDuty) (hp : s.pending = true) (hq : s.susp = some q) (p : Policy)
include hI hd hp hq

/-- That state is legal, and its host keeps its duty. -/
theorem resumed_ready (out : List PortEvent) :
    ((s.resumed p).withOut out).Inv ∧ ((s.resumed p).withOut out).HostDuty ∧
      ((s.resumed p).withOut out).pending = false ∧ q.endTime ≤ ((s.resumed p).withOut out).cfg.maxEndTime := by
  obtain ⟨hI', hE, -⟩ := resumed_legal hI hp hq p
  rw [addPeriod_applyPolicy_leave] at hI'
  have hA : SameAttributes s ((s.resumed p).withOut out) := (resumed_same s p).trans' (by constructor <;> rfl)
  exact ⟨hI', HostDuty.of_same hA hd, by cases p <;> rfl, hE.trans_eq (congrArg Config.Params.maxEndTime hA.cfg.symm)⟩

/-- Where none of the steps still due raises a request, the command completes over all its steps (R257, R270). -/
theorem reply_completes {k : Nat} (hk : k = stepsDue (s.resumed p) q.endTime) (hreq : (s.resumed p).NoRequestBefore k) :
    exec (.boundaryReply p.code) s =
      .next (completed q.kind (q.recorded ++ recordsBefore (s.resumed p) k)
        ((stepState k (s.resumed p)).withOut (s.out ++ [.response 0 none]))) := by
  subst hk
  obtain ⟨hwI, hwd, hwp, hE⟩ := resumed_ready hI hd hp hq p (s.out ++ [.response 0 none])
  rw [exec_boundaryReply_resumes hp hq p, continueCommand_completes hwI hwd hwp hE (noRequestBefore_withOut _ hreq),
    recordsBefore_withOut, stepState_withOut]
  rfl

/-- Where the step after `m` whole ones raises one, it waits again, with its steps so far (R320). -/
theorem reply_waitsAgain {m : Nat} {v : State} {e : Edge} (hm : m < stepsDue (s.resumed p) q.endTime)
    (hreq : (s.resumed p).NoRequestBefore m) (hadv : advance (stepState m (s.resumed p)) = .request v e) :
    exec (.boundaryReply p.code) s =
      .next (enterBoundaryWait q.kind q.endTime (q.recorded ++ recordsBefore (s.resumed p) m)
        ⟨(recordAt (s.resumed p) m).time, (recordAt (s.resumed p) m).amps, e⟩
        (v.withOut (s.out ++ [.response 0 none]))) := by
  obtain ⟨hwI, hwd, hwp, hE⟩ := resumed_ready hI hd hp hq p (s.out ++ [.response 0 none])
  have hadv' := advance_withOut_request (s.out ++ [.response 0 none]) hadv
  rw [← stepState_withOut] at hadv'
  rw [exec_boundaryReply_resumes hp hq p,
    continueCommand_suspends hwI hwd hwp hE (noRequestBefore_withOut _ hreq) _ hm hadv', recordsBefore_withOut,
    recordAt_withOut]

end

/-- Settles O51: the resumed command completes or waits again, and after NONE it is halted, so it completes. -/
theorem replyResumes : Obligations.ReplyResumes := by
  intro s u q p k rs hI hd hq hu hrs hk
  obtain ⟨-, -, -, -, -, -, ⟨hpend, hwait, -⟩, -⟩ := id hI
  have hp : s.pending = true := hpend.2 (by rw [hq]; rfl)
  obtain rfl : u = s.resumed p := hu
  rw [stepsDue_eq_ceil ((period_pos hI).trans_eq (resumed_same s p).period.symm)] at hk
  obtain ⟨hA, hP, htime⟩ := stepState_same k (s.resumed p)
  have hsame : SameAttributes s ((stepState k (s.resumed p)).withOut (s.out ++ [.response 0 none])) :=
    ((resumed_same s p).trans' hA).trans' (by constructor <;> rfl)
  have hlast : (stepState k (s.resumed p)).last = s.last := hP.last.trans (resumed_last s p)
  obtain rfl : rs = q.recorded := hrs
  refine ⟨fun hreq => ⟨_, reply_completes hI hd hp hq p hk hreq, ?_, completed_out hsame hlast _ _, fun c hc => ?_⟩,
    fun m v e hm hreq hadv => ?_, ?_⟩
  · rw [← htime]
    exact completed_frame _ _ _
  · refine (completed_lastAt hsame hlast _ _ (by rwa [hI.1.2.2])).trans ?_
    have hlen : (recordsBefore (s.resumed p) k).length = k := by simp [recordsBefore]
    rw [List.length_append (bs := recordsBefore (s.resumed p) k), hlen]
  · have hcfg : v.cfg = s.cfg := by
      obtain ⟨-, -, -, rfl, -⟩ := advance_request _ v e hadv
      exact ((stepState_same m (s.resumed p)).1.trans' (by constructor <;> rfl)).cfg.trans (resumed_same s p).cfg
    rw [reply_waitsAgain hI hd hp hq p (hk ▸ hm) hreq hadv, enterBoundaryWait, asr_eq_floor, ← hcfg]
    simp [State.withOut]
  · rintro rfl
    obtain ⟨-, hw, -⟩ := hwait hp
    obtain ⟨-, hh, hpos, hdir⟩ := stepState_halted (s := s.resumed .none) hw rfl k
    exact ⟨noRequestBefore_halted (s := s.resumed .none) hw rfl k, hh, hpos, hdir⟩

end Sys2Proof.Machine
end

section
/-! SUPPORT. The host's answers against the repeat policy (42_sample_playback.md R307, R320, R321): a state whose callback is
off, and whose policy is the host's answer, takes the same steps, and takes those whole at which the host is asked. -/

namespace Sys2Proof.Machine

/-- The state in which the policy decides at every boundary and no host is asked, with these outputs. -/
def State.deciding (s : State) (p : Policy) (out : List PortEvent) : State :=
  { s with sampleCallback := false, sampleRepeat := p, pending := false, susp := none, out := out }

/-! ### Its advance (R306, R307) -/

section
variable {s : State} (p : Policy) (out : List PortEvent)

theorem applyPolicy_deciding (q : Policy) : applyPolicy q (s.deciding p out) = (applyPolicy q s).deciding p out := by
  cases q <;> rfl

theorem sampleAdvance_deciding :
    sampleAdvance (s.deciding p out) =
      if s.halted then .done (s.deciding p out)
      else if outOfRange (movePos s) then .done ((applyPolicy p (movePos s)).deciding p out)
      else .done ((movePos s).deciding p out) := by
  rw [← applyPolicy_deciding]
  rfl

/-- An advance at which the host is asked is done, by the policy. -/
theorem advance_deciding_request {t : State} {e : Edge} (h : advance s = .request t e) :
    advance (s.deciding p out) = .done ((applyPolicy p t).deciding p out) := by
  obtain ⟨hw, hh, -, rfl, hout, -⟩ := advance_request s t e h
  rw [advance_sample (s.deciding p out) hw, sampleAdvance_deciding, if_pos hout]
  simp [hh]

variable (hcb : s.sampleCallback = true)
include hcb

/-- An advance at which no host is asked is the same. -/
theorem advance_deciding_done {t : State} (h : advance s = .done t) :
    advance (s.deciding p out) = .done (t.deciding p out) := by
  by_cases hw : s.waveform = .sample
  · rw [advance_sample (s.deciding p out) hw, sampleAdvance_deciding]
    rw [advance_sample s hw] at h
    rcases sampleAdvance_cases s with ⟨hh, e⟩ | ⟨hh, hin, e⟩ | ⟨-, -, hno, -⟩ | ⟨-, -, -, e⟩
    · rw [e] at h
      cases h
      rw [if_pos hh]
    · rw [e] at h
      cases h
      simp [hh, hin]
    · simp [hcb] at hno
    · rw [e] at h
      cases h
  · rw [advance_wave s hw] at h
    rw [advance_wave (s.deciding p out) hw]
    cases h
    rfl

end

/-! ### Its steps -/

/-- Amplitudes that can be read can be read in every state that reads the same. -/
theorem amplitudesBelow_of_toOption {s t : State} (h : ∀ c, (amplitude t c).toOption = (amplitude s c).toOption) {n : Nat}
    {as : List Int} (has : amplitudesBelow s n = .ok as) : amplitudesBelow t n = .ok as := by
  induction n generalizing as with
  | zero => exact has
  | succ n ih =>
    unfold amplitudesBelow at has ⊢
    cases hb : amplitudesBelow s n with
    | error f => rw [hb] at has; cases has
    | ok bs =>
      have ht := h n
      cases ha : amplitude s n with
      | error f => simp [hb, ha] at has
      | ok a =>
        rw [ha] at ht
        cases hta : amplitude t n with
        | error f => rw [hta] at ht; cases ht
        | ok b =>
          rw [hta] at ht
          cases ht
          simpa [hb, ha, ih hb] using has

/-- What a step taken whole has read and recorded. -/
theorem takeStep_taken_inv {s t : State} {r : StepRecord} (h : takeStep s = .taken t r) :
    ∃ as u, amplitudesBelow s s.nch = .ok as ∧ advance s = .done u ∧ t = addPeriod u ∧ r = ⟨s.time, as⟩ := by
  unfold takeStep at h
  cases has : amplitudesBelow s s.nch with
  | error f => rw [has] at h; cases h
  | ok as =>
    cases hadv : advance s with
    | request v e => simp [has, hadv] at h
    | done v =>
      simp only [has, hadv] at h
      cases h
      exact ⟨as, v, rfl, rfl, rfl, rfl⟩

/-- What a step has read at which the host is asked. -/
theorem takeStep_request_inv {s t : State} {cur : StepInProgress} (h : takeStep s = .request t cur) :
    amplitudesBelow s s.nch = .ok cur.amps ∧ advance s = .request t cur.edge ∧ cur.time = s.time := by
  unfold takeStep at h
  cases has : amplitudesBelow s s.nch with
  | error f => rw [has] at h; cases h
  | ok as =>
    cases hadv : advance s with
    | done v => simp [has, hadv] at h
    | request v e =>
      simp only [has, hadv] at h
      cases h
      exact ⟨rfl, rfl, rfl⟩

/-- The steps due after one go by the time and the period before it (R254). -/
theorem stepsDue_addPeriod_congr {s t : State} (htime : t.time = s.time) (hper : t.period = s.period) (e : Nat) :
    stepsDue (addPeriod t) e = stepsDue (addPeriod s) e := by
  simp only [stepsDue, addPeriod_time, addPeriod_period, htime, hper]

section
variable {s : State} (p : Policy) (out : List PortEvent)

theorem amplitude_deciding (c : Nat) : (amplitude (s.deciding p out) c).toOption = (amplitude s c).toOption :=
  amplitude_retimed { s with sampleCallback := false, sampleRepeat := p, pending := false, susp := none } s.time s.last out c

theorem amplitudesBelow_deciding {as : List Int} (h : amplitudesBelow s s.nch = .ok as) :
    amplitudesBelow (s.deciding p out) (s.deciding p out).nch = .ok as :=
  amplitudesBelow_of_toOption (fun c => amplitude_deciding p out c) h

/-- A step at which the host is asked is taken whole, with what the request keeps of it recorded. -/
theorem takeStep_deciding_request {t : State} {cur : StepInProgress} (h : takeStep s = .request t cur) :
    takeStep (s.deciding p out) = .taken ((addPeriod (applyPolicy p t)).deciding p out) ⟨cur.time, cur.amps⟩ := by
  obtain ⟨has, hadv, htime⟩ := takeStep_request_inv h
  rw [takeStep, amplitudesBelow_deciding p out has, advance_deciding_request p out hadv, htime]
  rfl

variable (hcb : s.sampleCallback = true)
include hcb

theorem takeStep_deciding_taken {t : State} {r : StepRecord} (h : takeStep s = .taken t r) :
    takeStep (s.deciding p out) = .taken (t.deciding p out) r := by
  obtain ⟨as, u, has, hadv, rfl, rfl⟩ := takeStep_taken_inv h
  rw [takeStep, amplitudesBelow_deciding p out has, advance_deciding_done p out hcb hadv]
  rfl

/-! ### Its step loop -/

theorem runSteps_deciding_finished {endTime k : Nat} {steps rs : List StepRecord} {t : State}
    (h : runSteps endTime k s steps = .finished t rs) :
    runSteps endTime k (s.deciding p out) steps = .finished (t.deciding p out) rs := by
  induction k generalizing s steps with
  | zero => cases h; rfl
  | succ k ih =>
    have hnow : (s.deciding p out).time = s.time := rfl
    unfold runSteps at h ⊢
    rw [hnow]
    split_ifs at h ⊢
    · cases hs : takeStep s with
      | taken v r =>
        rw [hs] at h
        rw [takeStep_deciding_taken p out hcb hs]
        exact ih (((takeStep_sameAttributes s).1 v r hs).sampleCallback.trans hcb) h
      | request v cur => rw [hs] at h; cases h
      | faulted f => rw [hs] at h; cases h
    · cases h
      rfl

/-- Where the loop waits on the host, the deciding state's goes on as the resumed command does (R320 item 4). -/
theorem runSteps_deciding_suspended {endTime k : Nat} {steps rs : List StepRecord} {t : State} {cur : StepInProgress}
    (hper : 1 ≤ s.period) (hk : k = stepsDue s endTime) (h : runSteps endTime k s steps = .suspended t rs cur) :
    runSteps endTime k (s.deciding p out) steps =
      runSteps endTime (stepsDue (addPeriod (applyPolicy p t)) endTime) ((addPeriod (applyPolicy p t)).deciding p out)
        (rs ++ [⟨cur.time, cur.amps⟩]) := by
  induction k generalizing s steps with
  | zero => cases h
  | succ k ih =>
    have hnow : (s.deciding p out).time = s.time := rfl
    unfold runSteps at h
    rw [runSteps, hnow]
    split_ifs at h ⊢ with hdue
    have hrest := stepsDue_pos s endTime hper hdue
    cases hs : takeStep s with
    | taken v r =>
      obtain ⟨as, u, -, hadv, rfl, -⟩ := takeStep_taken_inv hs
      obtain ⟨hA, -, htime⟩ := advance_done_same s u hadv
      have hcount := stepsDue_addPeriod_congr htime hA.period endTime
      rw [hs] at h
      rw [takeStep_deciding_taken p out hcb hs]
      exact ih (s := addPeriod u) (hA.sampleCallback.trans hcb) (hper.trans_eq hA.period.symm) (by omega) h
    | request v c =>
      obtain ⟨-, hadv, -⟩ := takeStep_request_inv hs
      obtain ⟨-, -, -, rfl, -⟩ := advance_request s v c.edge hadv
      rw [hs] at h
      cases h
      obtain ⟨hA, -, htime⟩ := applyPolicy_same p (movePos s)
      have hcount := stepsDue_addPeriod_congr (s := s) htime hA.period endTime
      rw [takeStep_deciding_request p out hs, hcount, show k = stepsDue (addPeriod s) endTime by omega]
    | faulted f => rw [hs] at h; cases h

end

/-! ### Its commands -/

theorem completed_length (kind : SuspKind) (rs : List StepRecord) (t : State) :
    (completed kind rs t).last.length = t.last.length := by
  rw [completed, applyShift_eq_shift]
  exact emitSteps_length rs t

/-- The end of a command is the same, and it sends the same. -/
theorem completed_deciding (kind : SuspKind) (rs : List StepRecord) (t : State) (p : Policy) (out : List PortEvent) :
    ∃ es, (completed kind rs t).out = t.out ++ es ∧
      completed kind rs (t.deciding p out) = (completed kind rs t).deciding p (out ++ es) := by
  have hout := completed_out (.rfl' t) rfl kind rs
  have hout' := completed_out (.rfl' (t.deciding p out)) rfl kind rs
  rw [List.append_assoc] at hout hout'
  refine ⟨_, hout, ?_⟩
  have hlast : (completed kind rs (t.deciding p out)).last = (completed kind rs t).last :=
    last_eq_of_lastAt (completed_length ..) (completed_length ..) fun c hc => by
      rw [completed_lastAt (.rfl' (t.deciding p out)) rfl kind rs hc, completed_lastAt (.rfl' t) rfl kind rs hc]
      rfl
  rw [completed_frame kind rs (t.deciding p out), completed_frame kind rs t, hlast, hout']
  rfl

/-- The state a wait is left in, but for what the policy decides without the host (R320 item 4). -/
theorem resumed_enterBoundaryWait_deciding (kind : SuspKind) (endTime : Nat) (rs : List StepRecord) (cur : StepInProgress)
    (s : State) (p : Policy) (out : List PortEvent) :
    ((enterBoundaryWait kind endTime rs cur s).resumed p).deciding p out = (addPeriod (applyPolicy p s)).deciding p out := by
  cases p <;> rfl

/-- A RUN or END, or the rest of one, of the deciding state: where the other completes it completes the same, and where
it waits on the host's answer it goes on as the resumed command does. -/
theorem continueCommand_deciding {kind : SuspKind} {endTime : Nat} {steps : List StepRecord} {s t : State} (hI : s.Inv)
    (hp : s.pending = false) (hE : endTime ≤ s.cfg.maxEndTime) (hsteps : StepsLegal s endTime steps)
    (hcb : s.sampleCallback = true) (p : Policy) {out : List PortEvent} (hout : sinkTxs out = sinkTxs s.out)
    (h : continueCommand kind endTime steps s = .next t) :
    (t.pending = false ∧ ∃ out', continueCommand kind endTime steps (s.deciding p out) = .next (t.deciding p out') ∧
      sinkTxs out' = sinkTxs t.out) ∨
    (t.pending = true ∧ sinkTxs out = sinkTxs t.out ∧ ∃ q, t.susp = some q ∧
      continueCommand kind endTime steps (s.deciding p out) =
        continueCommand q.kind q.endTime q.recorded ((t.resumed p).deciding p out)) := by
  have hcount : stepsDue (s.deciding p out) endTime = stepsDue s endTime := rfl
  unfold continueCommand at h
  rcases runSteps_spec endTime _ s hE steps hI hp hsteps rfl with
    ⟨u, rs, hrun, -, -, hP, -⟩ | ⟨u, rs, cur, hrun, -, -, hP, -⟩ | ⟨hrun, -⟩ <;>
    rw [hrun] at h <;> cases h
  · obtain ⟨es, hes, hcompleted⟩ := completed_deciding kind rs u p out
    refine .inl ⟨?_, out ++ es, ?_, ?_⟩
    · change (completed kind rs u).pending = false
      rw [completed_frame]
      exact hP.pending.trans hp
    · rw [continueCommand, hcount, runSteps_deciding_finished p out hcb hrun]
      exact congrArg _ hcompleted
    · change _ = sinkTxs (completed kind rs u).out
      rw [hes, hP.out, sinkTxs_append, sinkTxs_append, hout]
  · refine .inr ⟨rfl, ?_, ⟨kind, endTime, rs, cur⟩, rfl, ?_⟩
    · simp [enterBoundaryWait, hP.out, hout, sinkTxs]
    · rw [resumed_enterBoundaryWait_deciding, continueCommand, hcount,
        runSteps_deciding_suspended p out hcb (period_pos hI) rfl hrun]
      rfl

/-- A waiting oscillator is attached, and its callback is on (R606). -/
theorem waiting_attached {s : State} (hI : s.Inv) (hp : s.pending = true) :
    s.attached = true ∧ s.sampleCallback = true := by
  obtain ⟨-, -, -, -, -, -, ⟨-, hwait, -⟩, -⟩ := hI
  obtain ⟨hatt, -, -, hcb, -⟩ := hwait hp
  exact ⟨hatt, hcb⟩

/-- Replies keep the invariant. -/
theorem answered_inv (p : Policy) (n : Nat) {s t : State} (hI : s.Inv) (h : answered p n s = .next t) : t.Inv := by
  induction n generalizing s with
  | zero => cases h; exact hI
  | succ n ih =>
    unfold answered at h
    cases hexec : exec (.boundaryReply p.code) s with
    | next v => rw [hexec] at h; exact ih (exec_inv hI hexec) h
    | fault f => rw [hexec] at h; cases h
    | refused r => rw [hexec] at h; cases h

/-- A suspended command whose every request is answered `p` ends as the deciding state does that goes on from its wait. -/
theorem answered_deciding (p : Policy) (n : Nat) {s u : State} {q : Susp} {out : List PortEvent} (hI : s.Inv)
    (hp : s.pending = true) (hq : s.susp = some q) (hout : sinkTxs out = sinkTxs s.out)
    (hwaits : ∀ m < n, ∀ r, answered p m s = .next r → r.pending = true) (h : answered p n s = .next u)
    (hu : u.pending = false) :
    ∃ out', continueCommand q.kind q.endTime q.recorded ((s.resumed p).deciding p out) =
      .next (u.deciding p out') ∧ sinkTxs out' = sinkTxs u.out := by
  induction n generalizing s q with
  | zero => cases h; rw [hp] at hu; cases hu
  | succ n ih =>
    cases hexec : exec (.boundaryReply p.code) s with
    | fault f => simp [answered, hexec] at h
    | refused r => simp [answered, hexec] at h
    | next t =>
      have htI := exec_inv hI hexec
      have hafter : ∀ m, answered p (m + 1) s = answered p m t := fun m => by rw [answered, hexec]
      obtain ⟨hI', hE, hsteps⟩ := resumed_legal hI hp hq p
      rw [addPeriod_applyPolicy_leave] at hI' hsteps
      have hA : SameAttributes s ((s.resumed p).withOut (s.out ++ [.response 0 none])) :=
        (resumed_same s p).trans' (by constructor <;> rfl)
      obtain ⟨-, hcb⟩ := waiting_attached hI hp
      rw [hafter] at h
      rw [exec_boundaryReply_resumes hp hq p] at hexec
      rcases continueCommand_deciding hI' (by cases p <;> rfl) (by rwa [hA.cfg]) hsteps (hA.sampleCallback.trans hcb) p
          (out := out) (by simp [State.withOut, hout, sinkTxs]) hexec with
        ⟨htp, out', hrun, hsink⟩ | ⟨htp, hsink, q', hq', hrun⟩
      · cases n with
        | zero => cases h; exact ⟨out', hrun, hsink⟩
        | succ n =>
          have hwait := hwaits 1 (by omega) t (hafter 0)
          rw [htp] at hwait
          cases hwait
      · obtain ⟨out', hrun', hsink'⟩ := ih htI htp hq' hsink
          (fun m hm r hr => hwaits (m + 1) (by omega) r ((hafter m).trans hr)) h
        exact ⟨out', hrun.trans hrun', hsink'⟩

theorem deciding_of_idle {s : State} (hp : s.pending = false) (hs : s.susp = none) (p : Policy) (out : List PortEvent) :
    s.deciding p out = { s with sampleCallback := false, sampleRepeat := p, out := out } := by
  simp [State.deciding, hp, hs]

/-- A RUN or END that waits on the host has begun its steps, and the deciding state's begins them too. -/
theorem exec_waits {s t : State} {i : Instr} {e : Nat} (hi : i = .run e ∨ i = .endChunk e) (hp : s.pending = false)
    (hexec : exec i s = .next t) (htI : t.Inv) (htp : t.pending = true) (p : Policy) (out : List PortEvent) :
    ∃ kind, e ≤ s.cfg.maxEndTime ∧ continueCommand kind e [] s = .next t ∧
      exec i (s.deciding p out) = continueCommand kind e [] (s.deciding p out) := by
  have hatt : ∀ {kind}, continueCommand kind e [] s = .next t → s.attached = true := fun hrun =>
    (continueCommand_sameAttributes hrun).attached.symm.trans (waiting_attached htI htp).1
  have hrefused : ∀ st, t ≠ s.respond st := by
    rintro st rfl
    exact absurd htp (by simp [hp])
  rcases hi with rfl | rfl
  · rcases exec_run_cases hexec with ⟨st, ht⟩ | ⟨-, hE, hrun⟩
    · exact absurd ht (hrefused st)
    · exact ⟨.run, hE, hrun, exec_run (s := s.deciding p out) (hatt hrun) rfl hE⟩
  · rcases exec_endChunk_cases hexec with ⟨st, ht⟩ | ⟨-, hE, hrun⟩
    · exact absurd ht (hrefused st)
    · exact ⟨_, hE, hrun, exec_endChunk (s := s.deciding p out) (hatt hrun) rfl hE⟩

/-- Settles O52: the deciding state's command goes on from each wait as the host's answer does, and completes as it does. -/
theorem hostAnswerActsAsPolicy : Obligations.HostAnswerActsAsPolicy := by
  intro s t u i e n p hI _ hp hi hexec hn hwaits hanswered hu
  have htp : t.pending = true := hwaits 0 hn t rfl
  have htI := exec_inv hI hexec
  obtain ⟨kind, hE, hrun, hdeciding⟩ := exec_waits hi hp hexec htI htp p s.out
  have hcb : s.sampleCallback = true :=
    (continueCommand_sameAttributes hrun).sampleCallback.symm.trans (waiting_attached htI htp).2
  rcases continueCommand_deciding hI hp hE (stepsLegal_nil s e) hcb p rfl hrun with
    ⟨hidle, -⟩ | ⟨-, hsink, q, hq, hgoesOn⟩
  · rw [htp] at hidle
    cases hidle
  · obtain ⟨out, hcompletes, hsink'⟩ := answered_deciding p n htI htp hq hsink hwaits hanswered hu
    have hidle := susp_eq_none (answered_inv p n htI hanswered) hu
    rw [hgoesOn, hcompletes, deciding_of_idle hp (susp_eq_none hI hp)] at hdeciding
    exact ⟨_, hdeciding, hsink', deciding_of_idle hu hidle p out⟩

end Sys2Proof.Machine
end

section
/-! SUPPORT. RESET, ATTACH and DETACH as whole results (43_lifecycle.md R350, R352, R354), and when the attachment and the
boundary wait change (R355). -/

namespace Sys2Proof.Machine

/-! ### Their results -/

section
variable {s : State} (hp : s.pending = false)
include hp

theorem exec_reset : exec .reset s = .next ((clearTime s).respond .ok) := by
  show execReset s = _
  simp [execReset, succeed, hp]

theorem exec_attach_attached (n : Int) (hatt : s.attached = true) :
    exec (.attach n) s = .next (s.respond .invalidState) := by
  show execAttach n s = _
  simp [execAttach, fail, hp, hatt]

theorem exec_attach_badChannels {n : Int} (hatt : s.attached = false) (hn : n < 1 ∨ (s.cfg.maxChannels : Int) < n) :
    exec (.attach n) s = .next (s.respond .invalidNumChannels) := by
  show execAttach n s = _
  simp [execAttach, fail, hp, hatt, hn]

theorem exec_attach {n : Int} (hatt : s.attached = false) (h1 : 1 ≤ n) (hn : n ≤ s.cfg.maxChannels) :
    exec (.attach n) s = .next ((clearTime { s with attached := true, nch := n.toNat }).respond .ok) := by
  have hgood : ¬ (n < 1 ∨ (s.cfg.maxChannels : Int) < n) := by omega
  show execAttach n s = _
  simp [execAttach, succeed, hp, hatt, hgood]

theorem exec_detach_detached (hatt : s.attached = false) : exec .detach s = .next (s.respond .invalidState) := by
  show execDetach s = _
  simp [execDetach, fail, hp, hatt]

theorem exec_detach (hatt : s.attached = true) :
    exec .detach s = .next ((clearTime { s with attached := false, nch := 0 }).respond .ok) := by
  show execDetach s = _
  simp [execDetach, succeed, hp, hatt]

end

/-- Settles O31: one lemma per check, and one per success; ClearTime is written out there. -/
theorem attachAndDetach : Obligations.AttachAndDetach := fun _ hp =>
  ⟨exec_attach_attached hp, fun _ => exec_attach_badChannels hp, fun _ => exec_attach hp, exec_detach_detached hp,
    exec_detach hp⟩

/-- What ClearTime writes depends on no field it writes (R357). -/
theorem clearTime_clearTime (s : State) : clearTime (clearTime s) = clearTime s := by
  rw [clearTime_eq (clearTime s), clearTime_eq s]
  rfl

@[simp] theorem clearTime_pending (s : State) : (clearTime s).pending = s.pending := by rw [clearTime_eq]

/-- Settles O30: the state reached is ClearTime's, which a second RESET clears to itself. -/
theorem resetClearsTime : Obligations.ResetClearsTime := by
  intro s hp
  have hagain := exec_reset ((clearTime_pending s).trans hp)
  rw [clearTime_clearTime] at hagain
  exact ⟨clearTime s, rfl, exec_reset hp, hagain⟩

/-! ### The moves (R355) -/

/-- The code that names a policy is that policy's (R65). -/
theorem eq_code_of_policyOfCode {v : Int} {p : Policy} (h : policyOfCode v = some p) : v = p.code := by
  unfold policyOfCode at h
  split_ifs at h <;> cases h <;> assumption

section
variable {s u : State} {i : Instr}

/-- The attachment is written by ATTACH and DETACH alone, each from the other's side (R352, R354). -/
theorem Effect.attached_cases (h : Effect s i u) :
    u.attached = s.attached ∨ (∃ n, i = .attach n) ∧ s.attached = false ∨ i = .detach ∧ s.attached = true := by
  have hframe : StateField.attached ∉ writes i → u.attached = s.attached := h.sameOff .attached
  cases h with
  | unchanged => exact .inl rfl
  | attach _ hatt => exact .inr (.inl ⟨⟨_, rfl⟩, hatt⟩)
  | detach _ hatt => exact .inr (.inr ⟨rfl, hatt⟩)
  | _ => exact .inl (hframe (by simp [writes, stepFields, clearFields, notifyFields]))

/-- Only a RUN or an END begins a wait: the other commands of an idle oscillator do not write `pending` (R320, R607). -/
theorem Effect.run_or_end_of_waits (h : Effect s i u) (hp : s.pending = false) (hu : u.pending = true) :
    (∃ e, i = .run e) ∨ ∃ e, i = .endChunk e := by
  have hframe : StateField.pending ∉ writes i → u.pending = s.pending := h.sameOff .pending
  rw [hp, hu] at hframe
  cases h with
  | unchanged => exact absurd hp (by simp [hu])
  | run => exact .inl ⟨_, rfl⟩
  | endChunk => exact .inr ⟨_, rfl⟩
  | reply hwait => exact absurd hp (by simp [hwait])
  | _ => exact absurd (hframe (by simp [writes, clearFields, notifyFields])) (by decide)

/-- While pending, only a BOUNDARY_REPLY with a legal policy has an effect (R322, R612). -/
theorem Effect.pending_cases (h : Effect s i u) (hp : s.pending = true) :
    u = s ∨ ∃ p : Policy, i = .boundaryReply p.code := by
  cases h with
  | unchanged => exact .inl rfl
  | reply _ _ hv _ => exact .inr ⟨_, congrArg _ (eq_code_of_policyOfCode hv)⟩
  | _ => exact absurd hp (by simp [‹s.pending = false›])

end

/-- Settles O57, from the effects of the commands; a wait that has begun is an attached oscillator's by the invariant. -/
theorem lifecycleMoves : Obligations.LifecycleMoves := by
  intro s t i hI hexec
  have htI := exec_inv hI hexec
  obtain ⟨u, es, rfl, hu⟩ := exec_performs i s t hexec
  refine ⟨hu.attached_cases.resolve_left, fun hp htp => ?_, fun hp htp => ?_⟩
  · exact ⟨hu.run_or_end_of_waits hp htp, (waiting_attached htI htp).1⟩
  · refine (hu.pending_cases hp).resolve_left ?_
    rintro rfl
    exact absurd htp (by simp [hp])

end Sys2Proof.Machine
end

section
/-! SUPPORT. SET_ATTR key by key (44_attribute_write.md R400 to R410): what each does where nothing is pending, and that all of
them are refused where something is (60_exceptions.md R612). -/

namespace Sys2Proof.Machine

/-! ### Clamps and codes -/

/-- A range that begins at 0, its end written as an integer. -/
theorem clampNat_pred (v : Int) (n : Nat) : clampNat v 0 (n - 1) = (min (max v 0) ((n : Int) - 1)).toNat := by
  unfold clampNat clampInt
  omega

theorem clampNat_of_mem {n lo hi : Nat} (h : lo ≤ n ∧ n ≤ hi) : clampNat n lo hi = n := by
  unfold clampNat clampInt
  omega

theorem clampInt_of_mem {v lo hi : Int} (h : lo ≤ v ∧ v ≤ hi) : clampInt v lo hi = v := by
  unfold clampInt
  omega

/-- A clamped value as the integer that is read back. -/
theorem coe_clampNat {v : Int} {lo hi : Nat} (h : lo ≤ hi) : (clampNat v lo hi : Int) = min (max v lo) hi := by
  unfold clampNat clampInt
  omega

/-- A one-bit register holds whether the value clamped to 0 .. 1 is 1 (R410). -/
theorem clampInt_bit_beq (v : Int) : (clampInt v 0 1 == 1) = decide (1 ≤ v) := by
  rw [beq_eq_decide]
  refine decide_eq_decide.2 ?_
  unfold clampInt
  omega

theorem builtinOfCode_code {w : Waveform} (h : w ≠ .custom ∧ w ≠ .sample) : builtinOfCode w.code = some w := by
  obtain ⟨hcustom, hsample⟩ := h
  cases w with
  | custom => exact absurd rfl hcustom
  | sample => exact absurd rfl hsample
  | square | triangle | noise | sawtooth | sine => rfl

theorem eq_code_of_builtinOfCode {v : Int} {w : Waveform} (h : builtinOfCode v = some w) : v = w.code := by
  unfold builtinOfCode at h
  split_ifs at h <;> cases h <;> assumption

/-- The codes that SET_ATTR WAVEFORM accepts are 1 to 5 (R400). -/
theorem builtinOfCode_eq_none {v : Int} (hv : v < 1 ∨ 5 < v) : builtinOfCode v = none := by
  unfold builtinOfCode
  rw [if_neg (by omega), if_neg (by omega), if_neg (by omega), if_neg (by omega), if_neg (by omega)]

/-! ### Gains -/

/-- The gains are all `v` already. -/
theorem setAllVolumes_eq_self {s : State} {v : Nat} (hlen : s.volume.length = s.cfg.maxChannels)
    (hv : ∀ c < s.cfg.maxChannels, s.volumeAt c = v) : s.setAllVolumes v = s := by
  have hvolume : List.replicate s.cfg.maxChannels v = s.volume := by
    refine List.ext_getElem (by simp [hlen]) fun c hc hc' => ?_
    simpa [State.volumeAt, hc'] using (hv c (by simpa using hc)).symm
  rw [State.setAllVolumes, hvolume]

/-- The gain of channel `n` is what it is already. -/
theorem setVolume_volumeAt_eq_self {s : State} {n : Nat} (hn : n < s.volume.length) : s.setVolume n (s.volumeAt n) = s := by
  have hvolume : s.volume.set n (s.volumeAt n) = s.volume := by simp [State.volumeAt, hn]
  rw [State.setVolume, hvolume]

/-! ### What Restart leaves alone (R302) -/

@[simp] theorem restart_waveform (s : State) : (restart s).waveform = s.waveform := by rw [restart_eq]

@[simp] theorem restart_phase (s : State) : (restart s).phase = s.phase := by rw [restart_eq]

@[simp] theorem restart_sampleOffset (s : State) : (restart s).sampleOffset = s.sampleOffset := by rw [restart_eq]

@[simp] theorem restart_sampleEnd (s : State) : (restart s).sampleEnd = s.sampleEnd := by rw [restart_eq]

@[simp] theorem restart_sampleShape (s : State) : (restart s).sampleShape = s.sampleShape := by rw [restart_eq]

/-! ### While pending -/

/-- Every command that is not performed while pending answers INVALID_STATE and changes nothing (R612). -/
theorem exec_pending {s : State} {i : Instr} (hp : s.pending = true) (hi : performedWhilePending i = false) :
    exec i s = .next (s.respond .invalidState) := by
  cases i with
  | setAttrWaveform | setAttrDutyCycle | setAttrPeriod | setAttrPhase | setAttrVolume | setAttrVolumeN => exact if_pos hp
  | setAttrSampleOffset | setAttrSampleEnd | setAttrSamplePeriod | setAttrSampleRepeat | setAttrSampleCallback =>
    exact if_pos hp
  | setPtrWaveform | setPtrSample | run | endChunk | reset | attach | detach | dataNotifyReplaced | dataNotifyDisposed =>
    exact if_pos hp
  | reservedOp0 | reservedOpcToOpf => rfl
  | _ => cases hi

/-! ### Their results -/

/-- Without a sample SAMPLE_OFFSET is refused, pending or not (R406). -/
theorem exec_setAttrSampleOffset_noSample (s : State) (v : Int) (h : s.samplePtr = 0) :
    exec (.setAttrSampleOffset v) s = .next (s.respond .invalidState) := by
  show execSetAttrSampleOffset v s = _
  simp [execSetAttrSampleOffset, fail, h]

/-- Without a sample SAMPLE_END is refused, pending or not (R407). -/
theorem exec_setAttrSampleEnd_noSample (s : State) (v : Int) (h : s.samplePtr = 0) :
    exec (.setAttrSampleEnd v) s = .next (s.respond .invalidState) := by
  show execSetAttrSampleEnd v s = _
  simp [execSetAttrSampleEnd, fail, h]

section
variable {s : State} (hp : s.pending = false)
include hp

theorem exec_setAttrWaveform {v : Int} {w : Waveform} (hw : builtinOfCode v = some w) :
    exec (.setAttrWaveform v) s =
      .next (State.respond (if w = s.waveform then s else { s with waveform := w, phase := 0 }) .ok) := by
  show execSetAttrWaveform v s = _
  by_cases h : w = s.waveform <;> simp [execSetAttrWaveform, succeed, hp, hw, h]

theorem exec_setAttrWaveform_noCode {v : Int} (hv : builtinOfCode v = none) :
    exec (.setAttrWaveform v) s = .next (s.respond .invalidValue) := by
  show execSetAttrWaveform v s = _
  simp [execSetAttrWaveform, fail, hp, hv]

theorem exec_setAttrDutyCycle (v : Int) :
    exec (.setAttrDutyCycle v) s = .next (State.respond { s with duty := clampNat v 1 (s.cfg.nSquare - 1) } .ok) := by
  show execSetAttrDutyCycle v s = _
  simp [execSetAttrDutyCycle, succeed, hp]

theorem exec_setAttrPeriod (v : Int) :
    exec (.setAttrPeriod v) s =
      .next (State.respond { s with period := clampNat v s.cfg.periodMin s.cfg.periodMax } .ok) := by
  show execSetAttrPeriod v s = _
  simp [execSetAttrPeriod, succeed, hp]

theorem exec_setAttrPhase (v : Int) (hw : s.waveform ≠ .sample) :
    exec (.setAttrPhase v) s = .next (State.respond { s with phase := clampNat v 0 (phaseCount s - 1) } .ok) := by
  show execSetAttrPhase v s = _
  simp [execSetAttrPhase, succeed, hp, hw]

/-- SAMPLE has one phase, and a write of it restarts playback (R53, R403). -/
theorem exec_setAttrPhase_sample (v : Int) (hw : s.waveform = .sample) :
    exec (.setAttrPhase v) s = .next (State.respond (restart { s with phase := 0 }) .ok) := by
  have hphase : clampNat v 0 (phaseCount s - 1) = 0 := by
    simp only [clampNat_pred, phaseCount, hw]
    omega
  show execSetAttrPhase v s = _
  simp [execSetAttrPhase, succeed, hp, hw, hphase]

theorem exec_setAttrVolume (v : Int) :
    exec (.setAttrVolume v) s = .next ((s.setAllVolumes (clampNat v 0 s.cfg.volMax)).respond .ok) := by
  show execSetAttrVolume v s = _
  simp [execSetAttrVolume, succeed, hp]

theorem exec_setAttrVolumeN {n : Nat} (v : Int) (hn : n < s.cfg.maxChannels) :
    exec (.setAttrVolumeN n v) s = .next ((s.setVolume n (clampNat v 0 s.cfg.volMax)).respond .ok) := by
  show execSetAttrVolumeN n v s = _
  simp [execSetAttrVolumeN, succeed, hp, Nat.not_le.2 hn]

theorem exec_setAttrVolumeN_beyond {n : Nat} (v : Int) (hn : s.cfg.maxChannels ≤ n) :
    exec (.setAttrVolumeN n v) s = .next (s.respond .invalidAttribute) := by
  show execSetAttrVolumeN n v s = _
  simp [execSetAttrVolumeN, fail, hp, hn]

theorem exec_setAttrSampleOffset (v : Int) (h : s.samplePtr ≠ 0) :
    exec (.setAttrSampleOffset v) s =
      .next (State.respond (restart { s with sampleOffset := clampNat v 0 s.sampleShape.frames }) .ok) := by
  show execSetAttrSampleOffset v s = _
  simp [execSetAttrSampleOffset, succeed, hp, h]

theorem exec_setAttrSampleEnd (v : Int) (h : s.samplePtr ≠ 0) :
    exec (.setAttrSampleEnd v) s =
      .next (State.respond (restart { s with sampleEnd := clampNat v 0 s.sampleShape.frames }) .ok) := by
  show execSetAttrSampleEnd v s = _
  simp [execSetAttrSampleEnd, succeed, hp, h]

theorem exec_setAttrSamplePeriod (v : Int) :
    exec (.setAttrSamplePeriod v) s =
      .next (State.respond { s with samplePeriod := clampInt v (-Config.samplePeriodMax) Config.samplePeriodMax } .ok) := by
  show execSetAttrSamplePeriod v s = _
  simp [execSetAttrSamplePeriod, succeed, hp]

theorem exec_setAttrSampleRepeat (p : Policy) :
    exec (.setAttrSampleRepeat p.code) s = .next (State.respond { s with sampleRepeat := p } .ok) := by
  show execSetAttrSampleRepeat p.code s = _
  simp [execSetAttrSampleRepeat, succeed, hp, policyOfCode_code]

theorem exec_setAttrSampleRepeat_noPolicy {v : Int} (hv : policyOfCode v = none) :
    exec (.setAttrSampleRepeat v) s = .next (s.respond .invalidValue) := by
  show execSetAttrSampleRepeat v s = _
  simp [execSetAttrSampleRepeat, fail, hp, hv]

theorem exec_setAttrSampleCallback (v : Int) :
    exec (.setAttrSampleCallback v) s = .next (State.respond { s with sampleCallback := decide (1 ≤ v) } .ok) := by
  show execSetAttrSampleCallback v s = _
  simp [execSetAttrSampleCallback, succeed, hp, clampInt_bit_beq]

end

/-! ### The statements key by key -/

/-- Settles O18: the built-in codes select, and there are no others. -/
theorem setWaveformSelects : Obligations.SetWaveformSelects := by
  refine fun s hp => ⟨fun v w hw hv => ?_, fun v hv => exec_setAttrWaveform_noCode hp (builtinOfCode_eq_none hv)⟩
  have hbuiltin : w ≠ .custom ∧ w ≠ .sample := by rcases hw with rfl | rfl | rfl | rfl | rfl <;> decide
  exact exec_setAttrWaveform hp (hv ▸ builtinOfCode_code hbuiltin)

/-- Settles O19: the clamps written out. -/
theorem setDutyAndPeriodClamp : Obligations.SetDutyAndPeriodClamp := fun _ v hp =>
  ⟨exec_setAttrDutyCycle hp v, exec_setAttrPeriod hp v⟩

/-- Settles O20: SAMPLE apart, the clamp written out. -/
theorem setPhaseClamps : Obligations.SetPhaseClamps := fun s v hp =>
  ⟨fun hw => clampNat_pred v (phaseCount s) ▸ exec_setAttrPhase hp v hw, exec_setAttrPhase_sample hp v⟩

/-- Settles O21: the registers after each write, channel by channel. -/
theorem setVolumesClamp : Obligations.SetVolumesClamp := by
  intro s v hp hlen
  refine ⟨⟨_, exec_setAttrVolume hp v, rfl, List.length_replicate, fun c => setAllVolumes_volumeAt s _ c⟩,
    fun n hn => ⟨_, exec_setAttrVolumeN hp v hn, rfl, List.length_set.trans hlen, fun c _ => ?_⟩,
    fun n => exec_setAttrVolumeN_beyond hp v⟩
  split_ifs with hc
  · subst hc
    exact setVolume_volumeAt_same s c _ (hlen.symm ▸ hn)
  · exact setVolume_volumeAt_other s n c _ (Ne.symm hc)

/-- Settles O22: one lemma per check and per success; the host's duty keeps the count validated the port's (R106). -/
theorem setSampleRangeRestarts : Obligations.SetSampleRangeRestarts := by
  refine fun s v hp => ⟨fun h => ⟨exec_setAttrSampleOffset_noSample s v h, exec_setAttrSampleEnd_noSample s v h⟩,
    fun h => ⟨exec_setAttrSampleOffset hp v h, exec_setAttrSampleEnd hp v h, fun ⟨_, hsample⟩ => ?_⟩⟩
  obtain ⟨hshape, -⟩ := hsample h
  rw [hshape]
  rfl

/-- Settles O23: the three writes, and the codes of the policies. -/
theorem setPlaybackAttributes : Obligations.SetPlaybackAttributes := fun _ v hp =>
  ⟨exec_setAttrSamplePeriod hp v, fun p hv => hv ▸ exec_setAttrSampleRepeat hp p,
    fun hv => exec_setAttrSampleRepeat_noPolicy hp (policyOfCode_eq_none hv), exec_setAttrSampleCallback hp v⟩

end Sys2Proof.Machine
end

section
/-! SUPPORT. Reading back what was written (45_attribute_read.md R466), and rewriting what is held (44_attribute_write.md R414). -/

namespace Sys2Proof.Machine

/-! ### Rewriting the value held (R414) -/

/-- Settles O24: in a legal state each value held is in its range, so that the clamp gives it back. -/
theorem rewriteLeavesEveryField : Obligations.RewriteLeavesEveryField := by
  intro s hI hp
  obtain ⟨⟨⟨-, ⟨-, hchannels, -⟩, -⟩, hlen, -⟩, -, ⟨hphase, hduty, hperiod, hvol, -⟩, -, ⟨-, -, -, -, -, -, -, hsamplePeriod⟩,
    -⟩ := hI
  refine ⟨fun hcustom hsample => ?_, ?_, ?_, fun hw => ?_, fun v hv => ?_, fun n hn => ?_, ?_, ?_, ?_⟩
  · rw [exec_setAttrWaveform hp (builtinOfCode_code ⟨hcustom, hsample⟩), if_pos rfl]
  · rw [exec_setAttrDutyCycle hp, clampNat_of_mem hduty]
  · rw [exec_setAttrPeriod hp, clampNat_of_mem hperiod]
  · rw [exec_setAttrPhase hp _ hw, clampNat_of_mem ⟨Nat.zero_le _, Nat.le_sub_one_of_lt hphase⟩]
  · have hmax : v ≤ s.cfg.volMax := hv 0 hchannels ▸ hvol 0 hchannels
    rw [exec_setAttrVolume hp, clampNat_of_mem ⟨Nat.zero_le v, hmax⟩, setAllVolumes_eq_self hlen hv]
  · rw [exec_setAttrVolumeN hp _ hn, clampNat_of_mem ⟨Nat.zero_le _, hvol n hn⟩,
      setVolume_volumeAt_eq_self (hlen.symm ▸ hn)]
  · rw [exec_setAttrSamplePeriod hp, clampInt_of_mem hsamplePeriod]
  · rw [exec_setAttrSampleRepeat hp]
  · have hbit : decide ((1 : Int) ≤ if s.sampleCallback then 1 else 0) = s.sampleCallback := by
      cases s.sampleCallback <;> rfl
    rw [exec_setAttrSampleCallback hp, hbit]

/-! ### Reading back (R466) -/

section
variable {set get : Instr} {s u : State} {st : Status} {want : State → Int}

/-- Only the response of a success is 0 (60_exceptions.md R600). -/
theorem word_eq_zero_iff : st.word = 0 ↔ st = .ok := by cases st <;> decide

/-- A refused SET has nothing to read back. -/
theorem readsBack_of_refused (hset : exec set s = .next (s.respond st)) (hst : st ≠ .ok) : readsBack set get s want := by
  intro t ht hout
  rw [hset] at ht
  cases ht
  have hword : st.word = 0 := by simpa using hout
  exact absurd (word_eq_zero_iff.1 hword) hst

/-- A SET that makes `u` of the state is read back where the GET answers, of `u`, the int32 wanted. -/
theorem readsBack_of_succeeds {x : Int} (hset : exec set s = .next (u.respond .ok))
    (hget : exec get (u.respond .ok) = answer (int32Word x) (u.respond .ok))
    (hx : want (u.respond .ok) = x) (hlo : -2 ^ 31 ≤ x) (hhi : x < 2 ^ 31) : readsBack set get s want := by
  intro t ht _
  rw [hset] at ht
  cases ht
  refine ⟨int32Word x, hget, ?_⟩
  rw [hx]
  exact BitVec.toInt_ofInt_eq_self (by decide) hlo hhi

/-- A command that is refused while pending need be considered only where nothing is (R612). -/
theorem readsBack_unlessPending (hset : performedWhilePending set = false)
    (h : s.pending = false → readsBack set get s want) : readsBack set get s want := by
  cases hp : s.pending with
  | false => exact h hp
  | true => exact readsBack_of_refused (exec_pending hp hset) (by decide)

/-- A SET of a register that holds the value clamped into a range of naturals is read back as the value clamped. -/
theorem readsBack_clampNat {v : Int} {lo hi : Nat} (hset : exec set s = .next (u.respond .ok))
    (hget : exec get (u.respond .ok) = answer (int32Word (clampNat v lo hi)) (u.respond .ok))
    (hwant : want (u.respond .ok) = min (max v lo) hi) (hle : lo ≤ hi) (hhi : hi < 2 ^ 31) : readsBack set get s want := by
  have hrange := clampNat_range (v := v) hle
  exact readsBack_of_succeeds hset hget (hwant.trans (coe_clampNat hle).symm) (by omega) (by omega)

end

/-! ### Every answer is an int32 (log 23) -/

/-- Every configuration has a channel 0 (log 20). -/
theorem channels_pos {p : Config.Params} (h : p.WellFormed) : 0 < p.maxChannels := by
  obtain ⟨-, ⟨-, hchannels, -⟩, -⟩ := h
  exact hchannels

theorem waveform_code_range (w : Waveform) : -2 ^ 31 ≤ w.code ∧ w.code < 2 ^ 31 := by cases w <;> decide

theorem policy_code_range (p : Policy) : -2 ^ 31 ≤ p.code ∧ p.code < 2 ^ 31 := by cases p <;> decide

/-- The range of the gains (R60). -/
theorem volMax_lt {p : Config.Params} (h : p.WellFormed) : p.volMax < 2 ^ 31 := by
  obtain ⟨-, -, -, -, -, -, -, -, ⟨hmax, -⟩, -⟩ := h
  exact hmax

/-- The frame count of the sample validated (R501, R509). -/
theorem sampleFrames_lt {s : State} (hI : s.Inv) : s.sampleShape.frames < 2 ^ 31 := by
  obtain ⟨⟨⟨-, -, -, -, -, -, -, hfit, -⟩, -⟩, -, -, -, ⟨-, -, -, -, hsample, hnone, -⟩, -⟩ := hI
  have hadded : 0 ≤ (Config.samplePeriodMax - 1) / 2 ^ s.cfg.frac := Int.ediv_nonneg (by decide) (by positivity)
  by_cases h : s.samplePtr = 0
  · have := (hnone h).1
    omega
  · have := (hsample h).2
    omega

/-- The phase count of every waveform (R53). -/
theorem phaseCount_lt {s : State} (hI : s.Inv) : phaseCount s < 2 ^ 31 := by
  obtain ⟨⟨⟨-, -, -, -, -, -, -, -, ⟨-, hcustomMax⟩, hsquare, htriangle, hnoise, hsawtooth, hsine⟩, -⟩, -, -, -,
    ⟨-, hcustom, -, hframes, -⟩, -⟩ := hI
  unfold phaseCount
  cases hw : s.waveform with
  | custom => exact lt_of_le_of_lt (hframes (hcustom hw)).2 hcustomMax
  | sample => exact Nat.one_lt_two_pow (by decide)
  | square => exact hsquare
  | triangle => exact htriangle
  | noise => exact hnoise
  | sawtooth => exact hsawtooth
  | sine => exact hsine

/-! ### Key by key -/

theorem exec_getAttrVolumeN {s : State} {n : Nat} (hn : n < s.cfg.maxChannels) :
    exec (.getAttrVolumeN n) s = answer (int32Word (s.volumeAt n)) s := if_pos hn

section
variable {s : State} (hI : s.Inv) (v : Int)

theorem readsBack_waveform : readsBack (.setAttrWaveform v) .getAttrWaveform s fun _ => v :=
  readsBack_unlessPending rfl fun hp => by
    cases hw : builtinOfCode v with
    | none => exact readsBack_of_refused (exec_setAttrWaveform_noCode hp hw) (by decide)
    | some w =>
      have hv := eq_code_of_builtinOfCode hw
      obtain ⟨hlo, hhi⟩ := waveform_code_range w
      refine readsBack_of_succeeds (x := w.code) (exec_setAttrWaveform hp hw) ?_ hv hlo hhi
      split_ifs with h
      · subst h
        rfl
      · rfl

theorem readsBack_sampleRepeat : readsBack (.setAttrSampleRepeat v) .getAttrSampleRepeat s fun _ => v :=
  readsBack_unlessPending rfl fun hp => by
    cases hv : policyOfCode v with
    | none => exact readsBack_of_refused (exec_setAttrSampleRepeat_noPolicy hp hv) (by decide)
    | some p =>
      rw [eq_code_of_policyOfCode hv]
      obtain ⟨hlo, hhi⟩ := policy_code_range p
      exact readsBack_of_succeeds (exec_setAttrSampleRepeat hp p) rfl rfl hlo hhi

theorem readsBack_samplePeriod :
    readsBack (.setAttrSamplePeriod v) .getAttrSamplePeriod s fun _ => min (max v (-0x7FFFFFFF)) 0x7FFFFFFF :=
  readsBack_unlessPending rfl fun hp =>
    have hrange := clampInt_range (v := v) (lo := -Config.samplePeriodMax) (hi := Config.samplePeriodMax) (by decide)
    readsBack_of_succeeds (exec_setAttrSamplePeriod hp v) rfl rfl (le_trans (by decide) hrange.1)
      (lt_of_le_of_lt hrange.2 (by decide))

theorem readsBack_sampleCallback :
    readsBack (.setAttrSampleCallback v) .getAttrSampleCallback s fun _ => min (max v 0) 1 :=
  readsBack_unlessPending rfl fun hp => by
    have hbit : boolInt (decide (1 ≤ v)) = min (max v 0) 1 := by
      unfold boolInt
      simp only [decide_eq_true_eq]
      split_ifs <;> omega
    exact readsBack_of_succeeds (x := min (max v 0) 1) (exec_setAttrSampleCallback hp v) (hbit ▸ rfl) rfl (by omega) (by omega)

include hI

theorem readsBack_dutyCycle :
    readsBack (.setAttrDutyCycle v) .getAttrDutyCycle s fun _ => min (max v 1) ((s.cfg.nSquare : Int) - 1) :=
  readsBack_unlessPending rfl fun hp => by
    have hle := duty_range_nonempty hI.1.1
    obtain ⟨⟨⟨-, -, -, -, -, -, -, -, -, hsquare, -⟩, -⟩, -⟩ := hI
    exact readsBack_clampNat (exec_setAttrDutyCycle hp v) rfl (by omega) hle (by omega)

theorem readsBack_period :
    readsBack (.setAttrPeriod v) .getAttrPeriod s fun _ => min (max v s.cfg.periodMin) s.cfg.periodMax :=
  readsBack_unlessPending rfl fun hp => by
    have hle := period_range_nonempty hI.1.1
    obtain ⟨⟨⟨-, -, -, -, -, hmax, -⟩, -⟩, -⟩ := hI
    exact readsBack_clampNat (exec_setAttrPeriod hp v) rfl rfl hle hmax

/-- The phase reads back by the phase count after the write, which is the one before it (R403). -/
theorem readsBack_phase :
    readsBack (.setAttrPhase v) .getAttrPhase s fun t => min (max v 0) ((phaseCount t : Int) - 1) :=
  readsBack_unlessPending rfl fun hp => by
    by_cases hw : s.waveform = .sample
    · refine readsBack_of_succeeds (x := 0) (exec_setAttrPhase_sample hp v hw) ?_ ?_ (by decide) (by decide)
      · show answer (int32Word (restart _).phase) _ = _
        rw [restart_phase]
        rfl
      · simp only [phaseCount, respond_waveform, restart_waveform, hw]
        omega
    · have hlt := phaseCount_lt hI
      obtain ⟨-, -, ⟨hphase, -⟩, -⟩ := hI
      refine readsBack_clampNat (exec_setAttrPhase hp v hw) rfl ?_ (Nat.zero_le _) (by omega)
      change min (max v 0) ((phaseCount s : Int) - 1) = _
      omega

/-- VOLUME is read back as the gain of channel 0, which every configuration has (R404, R455). -/
theorem readsBack_volume : readsBack (.setAttrVolume v) .getAttrVolume s fun _ => min (max v 0) s.cfg.volMax :=
  readsBack_unlessPending rfl fun hp => by
    have hchannels := channels_pos hI.1.1
    refine readsBack_clampNat (exec_setAttrVolume hp v) ?_ rfl (Nat.zero_le _) (volMax_lt hI.1.1)
    show answer (int32Word ((s.setAllVolumes _).volumeAt 0)) _ = _
    rw [setAllVolumes_volumeAt s _ 0 hchannels]

theorem readsBack_volumeN {n : Nat} (hn : n < s.cfg.maxChannels) :
    readsBack (.setAttrVolumeN n v) (.getAttrVolumeN n) s fun _ => min (max v 0) s.cfg.volMax :=
  readsBack_unlessPending rfl fun hp => by
    have ⟨⟨_, hlen, _⟩, _⟩ := hI
    refine readsBack_clampNat (exec_setAttrVolumeN hp v hn) ?_ rfl (Nat.zero_le _) (volMax_lt hI.1.1)
    refine (exec_getAttrVolumeN (s := (s.setVolume n _).respond .ok) hn).trans ?_
    show answer (int32Word ((s.setVolume n _).volumeAt n)) _ = _
    rw [setVolume_volumeAt_same s n _ (hlen.symm ▸ hn)]

theorem readsBack_sampleOffset :
    readsBack (.setAttrSampleOffset v) .getAttrSampleOffset s fun t => min (max v 0) t.sampleShape.frames :=
  readsBack_unlessPending rfl fun hp => by
    by_cases h : s.samplePtr = 0
    · exact readsBack_of_refused (exec_setAttrSampleOffset_noSample s v h) (by decide)
    · refine readsBack_clampNat (v := v) (exec_setAttrSampleOffset hp v h) ?_ ?_ (Nat.zero_le _) (sampleFrames_lt hI)
      · show answer (int32Word (restart _).sampleOffset) _ = _
        rw [restart_sampleOffset]
      · simp

theorem readsBack_sampleEnd :
    readsBack (.setAttrSampleEnd v) .getAttrSampleEnd s fun t => min (max v 0) t.sampleShape.frames :=
  readsBack_unlessPending rfl fun hp => by
    by_cases h : s.samplePtr = 0
    · exact readsBack_of_refused (exec_setAttrSampleEnd_noSample s v h) (by decide)
    · refine readsBack_clampNat (v := v) (exec_setAttrSampleEnd hp v h) ?_ ?_ (Nat.zero_le _) (sampleFrames_lt hI)
      · show answer (int32Word (restart _).sampleEnd) _ = _
        rw [restart_sampleEnd]
      · simp

end

/-! ### RUN and END -/

/-- Outputs leave the registers as they are. -/
theorem SameAttributes.emit {s u : State} (h : SameAttributes s u) (es : List PortEvent) : SameAttributes s (u.emit es) :=
  h.trans' (by constructor <;> rfl)

/-- RUN and END keep the attributes, refused or performed (R466). -/
theorem exec_sameAttributes {s t : State} {e : Nat} (h : exec (.run e) s = .next t ∨ exec (.endChunk e) s = .next t) :
    SameAttributes s t := by
  rcases h with h | h
  · obtain ⟨u, es, rfl, hu⟩ := exec_performs _ s t h
    cases hu with
    | unchanged => exact (SameAttributes.rfl' s).emit es
    | run _ _ _ hrun => exact (continueCommand_sameAttributes hrun).emit es
  · obtain ⟨u, es, rfl, hu⟩ := exec_performs _ s t h
    cases hu with
    | unchanged => exact (SameAttributes.rfl' s).emit es
    | endChunk _ _ _ hrun => exact (continueCommand_sameAttributes hrun).emit es

/-- Settles O17: key by key above. -/
theorem setThenGetRoundTrip : Obligations.SetThenGetRoundTrip :=
  ⟨fun _ v hI _ _ =>
    ⟨readsBack_waveform v, readsBack_dutyCycle hI v, readsBack_period hI v, readsBack_phase hI v, readsBack_volume hI v,
      fun _ => readsBack_volumeN hI v, readsBack_sampleOffset hI v, readsBack_sampleEnd hI v, readsBack_samplePeriod v,
      readsBack_sampleRepeat v, readsBack_sampleCallback v⟩,
    fun _ _ _ => exec_sameAttributes⟩

end Sys2Proof.Machine
end

section
/-! SUPPORT. GET_ATTR key by key (45_attribute_read.md R450 to R465): what each answers in every state, and that a legal position
and range fit the widths of their answers (10_state.md R67, 45_attribute_read.md R464). -/

namespace Sys2Proof.Machine

/-! ### The value word -/

section
variable (s : State)

/-- A register that holds a natural is answered as its word (30_encoding.md R160). -/
theorem answer_natCast (n : Nat) : answer (int32Word n) s = .next (s.respondValue .ok (BitVec.ofNat 32 n)) := by
  rw [answer, int32Word, BitVec.ofInt_natCast]

/-- A flag is answered as 0 or 1 (R463). -/
theorem int32Word_boolInt (b : Bool) : int32Word (boolInt b) = if b then 1 else 0 := by cases b <;> rfl

theorem exec_getAttrPhaseCount :
    exec .getAttrPhaseCount s = .next (s.respondValue .ok (BitVec.ofNat 32 (phaseCount s))) := answer_natCast s _

theorem exec_getAttrVolumeN_beyond {n : Nat} (hn : s.cfg.maxChannels ≤ n) :
    exec (.getAttrVolumeN n) s = failValue .invalidAttribute s := if_neg (Nat.not_lt.2 hn)

theorem exec_getAttrSampleCallback :
    exec .getAttrSampleCallback s = .next (s.respondValue .ok (if s.sampleCallback then 1 else 0)) := by
  rw [← int32Word_boolInt]
  rfl

theorem exec_getAttrSamplePosition :
    exec .getAttrSamplePosition s =
      .next (s.respondValue .ok (BitVec.ofInt 32 (Int.floor ((s.pos : ℚ) / 2 ^ s.cfg.frac)))) := by
  rw [← asr_eq_floor]
  rfl

end

/-! ### The widths of the position and of the range (log 23) -/

section
variable {s : State} (hI : s.Inv)
include hI

/-- The position is a signed 64-bit value (R67). -/
theorem pos_int64 : -2 ^ 63 ≤ s.pos ∧ s.pos < 2 ^ 63 := by
  obtain ⟨⟨⟨-, -, -, -, -, -, hfit, -⟩, -⟩, -, -, -, -, ⟨⟨hlo, hhi⟩, -⟩, -⟩ := hI
  exact ⟨le_trans (by decide) hlo, lt_of_lt_of_le hhi hfit⟩

/-- The frame of the position is an int32 (R464): one sample is at least one time unit, and `pos` lies less than a largest step
beyond the last frame a sample can have (46_data_pointers.md R501). -/
theorem positionFrame_int32 : -2 ^ 31 ≤ asr s.pos s.cfg.frac ∧ asr s.pos s.cfg.frac < 2 ^ 31 := by
  obtain ⟨⟨⟨-, -, -, -, -, -, -, hfit, -⟩, -⟩, -, -, -, -, ⟨⟨hlo, hhi⟩, -⟩, -⟩ := hI
  have hone : (0 : Int) < 2 ^ s.cfg.frac := by positivity
  constructor
  · refine (Int.le_ediv_iff_mul_le hone).2 ?_
    calc (-2 ^ 31 : Int) * 2 ^ s.cfg.frac ≤ -2 ^ 31 := by omega
      _ ≤ s.pos := le_trans (by decide) hlo
  · have hlast : s.pos ≤ Config.samplePeriodMax - 1 + s.cfg.maxFrames * 2 ^ s.cfg.frac := by
      unfold fixedOf at hhi
      omega
    calc asr s.pos s.cfg.frac ≤ (Config.samplePeriodMax - 1 + s.cfg.maxFrames * 2 ^ s.cfg.frac) / 2 ^ s.cfg.frac :=
          Int.ediv_le_ediv hone hlast
      _ = s.cfg.maxFrames + (Config.samplePeriodMax - 1) / 2 ^ s.cfg.frac := by
          rw [Int.add_mul_ediv_right _ _ hone.ne', add_comm]
      _ < 2 ^ 31 := hfit

/-- The bounds of the range lie within the sample validated (R63). -/
theorem sampleRange_int32 : s.sampleOffset < 2 ^ 31 ∧ s.sampleEnd < 2 ^ 31 := by
  have hframes := sampleFrames_lt hI
  obtain ⟨-, -, -, -, ⟨-, -, -, -, -, -, ⟨hoffset, hend⟩, -⟩, -⟩ := hI
  exact ⟨lt_of_le_of_lt hoffset hframes, lt_of_le_of_lt hend hframes⟩

end

/-! ### Key by key -/

/-- Settles O13: each key's word by `answer_natCast`, and VOLUME_n by its two cases. -/
theorem getAnswersWaveformKeys : Obligations.GetAnswersWaveformKeys := by
  intro s
  refine ⟨rfl, answer_natCast s _, answer_natCast s _, answer_natCast s _, ?phaseCount, answer_natCast s _, rfl,
    answer_natCast s _, fun n hn => (exec_getAttrVolumeN hn).trans (answer_natCast s _),
    fun n hn => exec_getAttrVolumeN_beyond s hn⟩
  case phaseCount =>
    rw [exec_getAttrPhaseCount, phaseCount]
    cases s.waveform <;> rfl

/-- Settles O14: the answers key by key, and the widths in a legal state. -/
theorem getAnswersSampleKeys : Obligations.GetAnswersSampleKeys := by
  intro s
  refine ⟨answer_natCast s _, answer_natCast s _, rfl, rfl, exec_getAttrSampleCallback s, exec_getAttrSamplePosition s,
    fun hI => ⟨pos_int64 hI, sampleRange_int32 hI, ?_⟩⟩
  rw [← asr_eq_floor]
  exact positionFrame_int32 hI

end Sys2Proof.Machine
end

section
/-! SUPPORT. SET_PTR, GET_PTR and DATA_NOTIFY (46_data_pointers.md): what each answers and does where nothing is pending, by the
validation of R509. -/

namespace Sys2Proof.Machine

/-! ### Validation (R509) -/

section
variable {p : Config.Params} {sh : Shape} {shape : Option Shape}

theorem waveOK_iff : waveOK p (some sh) = true ↔ p.customMin ≤ sh.frames ∧ sh.frames ≤ p.customMax := decide_eq_true_iff

theorem sampleOK_iff : sampleOK p (some sh) = true ↔ 1 ≤ sh.frames ∧ sh.frames ≤ p.maxFrames := decide_eq_true_iff

/-- No table validates where no object lives, or none of a legal length. -/
theorem waveOK_eq_false (hbad : ∀ sh, shape = some sh → sh.frames < p.customMin ∨ p.customMax < sh.frames) :
    waveOK p shape = false := by
  cases shape with
  | none => rfl
  | some sh =>
    have hlength := hbad sh rfl
    exact decide_eq_false (by omega)

/-- No sample validates where no object lives, or none of a legal length. -/
theorem sampleOK_eq_false (hbad : ∀ sh, shape = some sh → sh.frames < 1 ∨ p.maxFrames < sh.frames) :
    sampleOK p shape = false := by
  cases shape with
  | none => rfl
  | some sh =>
    have hlength := hbad sh rfl
    exact decide_eq_false (by omega)

end

/-- Handle 0 names no object (R101). -/
theorem ne_zero_of_dataShape {s : State} {h : Nat} {sh : Shape} (hs : dataShape s h = some sh) : h ≠ 0 := by
  obtain ⟨_, hfind, -⟩ := dataShape_eq_some hs
  exact (findObject_mem _ _ _ hfind).1

/-! ### GET_PTR (R502, R503) -/

@[simp] theorem dropWave_wavePtr (s : State) : (dropWave s).wavePtr = 0 := by rw [dropWave_eq]
@[simp] theorem dropWave_samplePtr (s : State) : (dropWave s).samplePtr = s.samplePtr := by rw [dropWave_eq]
@[simp] theorem dropSample_samplePtr (s : State) : (dropSample s).samplePtr = 0 := by rw [dropSample_eq]

theorem exec_getPtrWaveform (s : State) :
    exec .getPtrWaveform s = .next (s.respondValue .ok (BitVec.ofNat 32 s.wavePtr)) := rfl

theorem exec_getPtrSample (s : State) :
    exec .getPtrSample s = .next (s.respondValue .ok (BitVec.ofNat 32 s.samplePtr)) := rfl

/-- Settles O16: the answer is the handle held, and dropping leaves handle 0. -/
theorem getPtrAnswersHandles : Obligations.GetPtrAnswersHandles := by
  refine fun s => ⟨exec_getPtrWaveform s, exec_getPtrSample s, ?_, ?_⟩
  · rw [exec_getPtrWaveform, dropWave_wavePtr]
    rfl
  · rw [exec_getPtrSample, dropSample_samplePtr]
    rfl

/-! ### SET_PTR (R500, R501) -/

section
variable {s : State} (hp : s.pending = false)
include hp

theorem exec_setPtrWaveform_zero : exec (.setPtrWaveform 0) s = .next ((dropWave s).respond .ok) := by
  show execSetPtrWaveform 0 s = _
  simp [execSetPtrWaveform, succeed, hp]

theorem exec_setPtrWaveform_dead {h : Nat} (h0 : h ≠ 0) (hs : dataShape s h = none) :
    exec (.setPtrWaveform h) s = .next (s.respond .invalidValue) := by
  show execSetPtrWaveform h s = _
  simp [execSetPtrWaveform, fail, hp, h0, hs]

theorem exec_setPtrWaveform_badFrames {h : Nat} {sh : Shape} (hs : dataShape s h = some sh)
    (hok : waveOK s.cfg (some sh) = false) : exec (.setPtrWaveform h) s = .next (s.respond .invalidNumFrames) := by
  show execSetPtrWaveform h s = _
  simp [execSetPtrWaveform, fail, hp, ne_zero_of_dataShape hs, hs, hok]

theorem exec_setPtrWaveform {h : Nat} {sh : Shape} (hs : dataShape s h = some sh)
    (hok : waveOK s.cfg (some sh) = true) :
    exec (.setPtrWaveform h) s =
      .next (State.respond
        { s with wavePtr := h, waveShape := sh, waveIdentity := .same, waveform := .custom, phase := 0 } .ok) := by
  show execSetPtrWaveform h s = _
  simp [execSetPtrWaveform, succeed, hp, ne_zero_of_dataShape hs, hs, hok]

theorem exec_setPtrSample_zero : exec (.setPtrSample 0) s = .next ((dropSample s).respond .ok) := by
  show execSetPtrSample 0 s = _
  simp [execSetPtrSample, succeed, hp]

theorem exec_setPtrSample_dead {h : Nat} (h0 : h ≠ 0) (hs : dataShape s h = none) :
    exec (.setPtrSample h) s = .next (s.respond .invalidValue) := by
  show execSetPtrSample h s = _
  simp [execSetPtrSample, fail, hp, h0, hs]

theorem exec_setPtrSample_badFrames {h : Nat} {sh : Shape} (hs : dataShape s h = some sh)
    (hok : sampleOK s.cfg (some sh) = false) : exec (.setPtrSample h) s = .next (s.respond .invalidNumFrames) := by
  show execSetPtrSample h s = _
  simp [execSetPtrSample, fail, hp, ne_zero_of_dataShape hs, hs, hok]

theorem exec_setPtrSample {h : Nat} {sh : Shape} (hs : dataShape s h = some sh)
    (hok : sampleOK s.cfg (some sh) = true) :
    exec (.setPtrSample h) s =
      .next (State.respond
        (restart
          { s with
            samplePtr := h, sampleShape := sh, sampleIdentity := .same, waveform := .sample, phase := 0, sampleOffset := 0
            sampleEnd := sh.frames })
        .ok) := by
  show execSetPtrSample h s = _
  simp [execSetPtrSample, succeed, hp, ne_zero_of_dataShape hs, hs, hok]

end

/-- A whole sample starts at its first frame, or backward at its last (R302, R501). -/
theorem restart_wholeSample {s : State} (hptr : s.samplePtr ≠ 0) (hoffset : s.sampleOffset = 0) (hend : 1 ≤ s.sampleEnd) :
    restart s =
      { s with
        dir := .forward
        halted := false
        pos := if 0 ≤ s.samplePeriod then 0 else ((s.sampleEnd : Int) - 1) * 2 ^ s.cfg.frac } := by
  rw [restart_eq, rangeHi_sub_one]
  simp [hptr, hoffset, Nat.one_le_iff_ne_zero.1 hend, rangeLo_eq]

/-- Settles O25: one lemma per case, and DropWave written out. -/
theorem setPtrWaveformSelects : Obligations.SetPtrWaveformSelects := by
  refine fun s h hp => ⟨fun h0 => ⟨_, _, h0 ▸ exec_setPtrWaveform_zero hp⟩, exec_setPtrWaveform_dead hp,
    fun sh hs hbad => exec_setPtrWaveform_badFrames hp hs (waveOK_eq_false ?_),
    fun sh hs hmin hmax => exec_setPtrWaveform hp hs (waveOK_iff.2 ⟨hmin, hmax⟩)⟩
  rintro _ ⟨⟩
  exact hbad

/-- Settles O26: one lemma per case, DropSample and the restart written out. -/
theorem setPtrSampleSelects : Obligations.SetPtrSampleSelects := by
  refine fun s h hp => ⟨fun h0 => ⟨_, _, _, h0 ▸ exec_setPtrSample_zero hp, dropSample_eq s⟩, exec_setPtrSample_dead hp,
    fun sh hs hbad => exec_setPtrSample_badFrames hp hs (sampleOK_eq_false ?_), fun sh hs hmin hmax => ?_⟩
  · rintro _ ⟨⟩
    exact hbad
  · rw [exec_setPtrSample hp hs (sampleOK_iff.2 ⟨hmin, hmax⟩), restart_wholeSample (ne_zero_of_dataShape hs) rfl hmin]

/-! ### DATA_NOTIFY REPLACED (R505) -/

section
variable {s : State} {h : Nat}

theorem replaceWave_notHeld (hne : s.wavePtr ≠ h) : replaceWave h s = s := if_neg hne

theorem replaceWave_valid {sh : Shape} (heq : s.wavePtr = h) (hs : dataShape s h = some sh)
    (hok : waveOK s.cfg (some sh) = true) :
    replaceWave h s =
      { s with waveShape := sh, waveIdentity := .same, phase := if s.waveform = .custom then 0 else s.phase } := by
  by_cases hw : s.waveform = .custom <;> simp [replaceWave, heq, hs, hok, hw]

theorem replaceWave_invalid (heq : s.wavePtr = h) (hbad : waveOK s.cfg (dataShape s h) = false) :
    replaceWave h s = dropWave s := by
  cases hs : dataShape s h with
  | none => simp [replaceWave, heq, hs]
  | some sh =>
    rw [hs] at hbad
    simp [replaceWave, heq, hs, hbad]

theorem replaceSample_notHeld (hne : s.samplePtr ≠ h) : replaceSample h s = s := if_neg hne

theorem replaceSample_valid {sh : Shape} (heq : s.samplePtr = h) (hs : dataShape s h = some sh)
    (hok : sampleOK s.cfg (some sh) = true) :
    replaceSample h s =
      restart { s with sampleShape := sh, sampleIdentity := .same, sampleOffset := 0, sampleEnd := sh.frames } := by
  simp [replaceSample, heq, hs, hok]

theorem replaceSample_invalid (heq : s.samplePtr = h) (hbad : sampleOK s.cfg (dataShape s h) = false) :
    replaceSample h s = dropSample s := by
  cases hs : dataShape s h with
  | none => simp [replaceSample, heq, hs]
  | some sh =>
    rw [hs] at hbad
    simp [replaceSample, heq, hs, hbad]

end

/-- The wave part leaves what the sample part looks at: its handle, the bounds of R509 and data memory. -/
theorem replaceWave_keeps_sample (h : Nat) (s : State) :
    (replaceWave h s).samplePtr = s.samplePtr ∧ (replaceWave h s).cfg = s.cfg ∧
      ∀ g, dataShape (replaceWave h s) g = dataShape s g := by
  have hkeeps := replaceWave_sameOff h s
  have hdata : (replaceWave h s).data = s.data := hkeeps .data (by simp [writes])
  exact ⟨hkeeps .samplePtr (by simp [writes]), hkeeps .cfg (by simp [writes]), fun g => by rw [dataShape, dataShape, hdata]⟩

section
variable {s : State} (hp : s.pending = false)
include hp

theorem exec_dataNotifyReplaced_zero : exec (.dataNotifyReplaced 0) s = .next (s.respond .invalidValue) := by
  show execDataNotifyReplaced 0 s = _
  simp [execDataNotifyReplaced, fail, hp]

theorem exec_dataNotifyReplaced {h : Nat} (h0 : h ≠ 0) :
    exec (.dataNotifyReplaced h) s = .next ((replaceSample h (replaceWave h s)).respond .ok) := by
  show execDataNotifyReplaced h s = _
  simp [execDataNotifyReplaced, succeed, hp, h0]

end

/-- Settles O27: the two parts case by case, the second on what the first leaves. -/
theorem notifyReplacedRevalidates : Obligations.NotifyReplacedRevalidates := by
  refine fun s h hp => ⟨fun h0 => h0 ▸ exec_dataNotifyReplaced_zero hp, fun h0 =>
    ⟨replaceWave h s, _, exec_dataNotifyReplaced hp h0, replaceWave_notHeld,
      fun heq _ hs hlength => replaceWave_valid heq hs (waveOK_iff.2 hlength),
      fun heq hbad => replaceWave_invalid heq (waveOK_eq_false hbad), ?_⟩⟩
  obtain ⟨hptr, hcfg, hshape⟩ := replaceWave_keeps_sample h s
  rw [← hptr, ← hcfg, ← hshape]
  exact ⟨replaceSample_notHeld, fun heq _ hs hlength => replaceSample_valid heq hs (sampleOK_iff.2 hlength),
    fun heq hbad => replaceSample_invalid heq (sampleOK_eq_false hbad)⟩

/-! ### DATA_NOTIFY DISPOSED (R506) -/

section
variable {s : State} {h : Nat}

theorem disposeWave_held (heq : s.wavePtr = h) : disposeWave h s = dropWave s := if_pos heq

theorem disposeWave_notHeld (hne : s.wavePtr ≠ h) : disposeWave h s = s := if_neg hne

theorem disposeSample_held (heq : s.samplePtr = h) : disposeSample h s = dropSample s := if_pos heq

theorem disposeSample_notHeld (hne : s.samplePtr ≠ h) : disposeSample h s = s := if_neg hne

@[simp] theorem disposeSample_wavePtr : (disposeSample h s).wavePtr = s.wavePtr :=
  disposeSample_sameOff h s .wavePtr (by simp [writes])

/-- The table's handle is not held on (R506). -/
theorem disposeWave_wavePtr_ne (h0 : h ≠ 0) : (disposeWave h s).wavePtr ≠ h := by
  by_cases heq : s.wavePtr = h
  · rw [disposeWave_held heq, dropWave_wavePtr]
    exact h0.symm
  · rwa [disposeWave_notHeld heq]

/-- The sample's handle is not held on (R506). -/
theorem disposeSample_samplePtr_ne (h0 : h ≠ 0) : (disposeSample h s).samplePtr ≠ h := by
  by_cases heq : s.samplePtr = h
  · rw [disposeSample_held heq, dropSample_samplePtr]
    exact h0.symm
  · rwa [disposeSample_notHeld heq]

end

section
variable {s : State} (hp : s.pending = false)
include hp

theorem exec_dataNotifyDisposed_zero : exec (.dataNotifyDisposed 0) s = .next (s.respond .invalidValue) := by
  show execDataNotifyDisposed 0 s = _
  simp [execDataNotifyDisposed, fail, hp]

theorem exec_dataNotifyDisposed {h : Nat} (h0 : h ≠ 0) :
    exec (.dataNotifyDisposed h) s = .next ((disposeSample h (disposeWave h s)).respond .ok) := by
  show execDataNotifyDisposed h s = _
  simp [execDataNotifyDisposed, succeed, hp, h0]

end

/-- Settles O28: neither part leaves the handle held, and each drops only what it names. -/
theorem notifyDisposedReleases : Obligations.NotifyDisposedReleases := by
  refine fun s h hp => ⟨fun h0 => h0 ▸ exec_dataNotifyDisposed_zero hp, fun h0 =>
    ⟨_, exec_dataNotifyDisposed hp h0, ?_, disposeSample_samplePtr_ne h0, fun hw hs => ?_, fun hw hs => ?_,
      fun hw hs => ?_, fun hw hs => ?_⟩⟩
  · rw [disposeSample_wavePtr]
    exact disposeWave_wavePtr_ne h0
  · rw [disposeWave_notHeld hw, disposeSample_notHeld hs]
  · rw [disposeWave_held hw, disposeSample_notHeld ((dropWave_samplePtr s).trans_ne hs)]
  · rw [disposeWave_notHeld hw, disposeSample_held hs]
  · rw [disposeWave_held hw, disposeSample_held ((dropWave_samplePtr s).trans hs)]

end Sys2Proof.Machine
end

section
/-! SUPPORT. What a command answers (60_exceptions.md R600 to R603, R610, R612): a refusal is one response, of a code listed for the
command, and changes nothing else; every other response is 0. -/

namespace Sys2Proof

/-! ### The operations that answer a value word (30_encoding.md R152, R160) -/

/-- GET_ATTR and GET_PTR. -/
def Instr.answersValue : Instr → Bool
  | .getAttrWaveform | .getAttrDutyCycle | .getAttrPeriod | .getAttrPhase | .getAttrPhaseCount | .getAttrVolume => true
  | .getAttrStatus | .getAttrNumChannels | .getAttrVolumeN _ | .getAttrSampleOffset | .getAttrSampleEnd => true
  | .getAttrSamplePeriod | .getAttrSampleRepeat | .getAttrSampleCallback | .getAttrSamplePosition => true
  | .getPtrWaveform | .getPtrSample => true
  | _ => false

/-- The illegal encodings of those operations. -/
def Illegal.answersValue : Illegal → Bool
  | .reservedBits op | .unlistedKey op => hasValueWord op
  | .keyOnKeyless _ | .readOnlyKey => false

/-- What the decoder reads answers a value word. -/
def readsValue : Except Illegal Instr → Bool
  | .ok i => i.answersValue
  | .error why => why.answersValue

theorem decodeSetAttr_readsValue (key : Nat) (v : Int) : readsValue (decodeSetAttr key v) = false := by
  unfold decodeSetAttr
  repeat' split
  all_goals rfl

theorem decodeGetAttr_readsValue (key : Nat) : readsValue (decodeGetAttr key) = true := by
  unfold decodeGetAttr
  repeat' split
  all_goals rfl

theorem decodeSetPtr_readsValue (key hdl : Nat) : readsValue (decodeSetPtr key hdl) = false := by
  unfold decodeSetPtr
  split <;> rfl

theorem decodeGetPtr_readsValue (key : Nat) : readsValue (decodeGetPtr key) = true := by
  unfold decodeGetPtr
  split <;> rfl

theorem decodeNotify_readsValue (key hdl : Nat) : readsValue (decodeNotify key hdl) = false := by
  unfold decodeNotify
  split <;> rfl

/-- The operation alone says whether there is a value word. -/
theorem decodeOp_readsValue (op key : Nat) (w1 w2 : Word) : readsValue (decodeOp op key w1 w2) = hasValueWord op := by
  unfold decodeOp
  split
  case h_1 => exact decodeSetAttr_readsValue _ _
  case h_2 => exact decodeGetAttr_readsValue _
  case h_3 => exact decodeSetPtr_readsValue _ _
  case h_4 => exact decodeGetPtr_readsValue _
  case h_10 => exact decodeNotify_readsValue _ _
  case h_13 => simp_all [hasValueWord, readsValue, Instr.answersValue]
  all_goals rfl

/-- No keyless operation has a value word (R152). -/
theorem hasValueWord_of_isKeyless {op : Nat} (h : isKeyless op = true) : hasValueWord op = false := by
  simp only [isKeyless, Bool.or_eq_true, beq_iff_eq] at h
  simp only [hasValueWord, Bool.or_eq_false_iff, beq_eq_false_iff_ne]
  omega

/-- A header shows whether there is a value word, of a command and of an illegal encoding alike (R160). -/
theorem decodeWords_readsValue (h w1 w2 : Word) : readsValue (decodeWords h w1 w2) = hasValueWord (headerOp h) := by
  unfold decodeWords
  dsimp only
  split_ifs with h0 hhigh hrsv hkey
  · rw [h0]
    rfl
  · have hnot : headerOp h ≠ 2 ∧ headerOp h ≠ 4 := by omega
    simp [readsValue, Instr.answersValue, hasValueWord, hnot]
  · rfl
  · exact (hasValueWord_of_isKeyless hkey.1).symm
  · exact decodeOp_readsValue _ _ _ _

/-- The words an illegal encoding came from (R153). -/
theorem decode_illegal_inv {ws rest : List Word} {why : Illegal} (hdec : decode ws = .illegal why rest) :
    ∃ h tail, ws = h :: tail ∧ decodeWords h (tail[0]?.getD 0) (tail[1]?.getD 0) = .error why ∧
      tail.drop (wordsOfOp (headerOp h) - 1) = rest := by
  cases ws with
  | nil => cases hdec
  | cons h tail =>
    simp only [decode] at hdec
    split at hdec
    case isTrue => cases hdec
    case isFalse =>
      split at hdec
      case h_1 => cases hdec
      case h_2 why' hj =>
        cases hdec
        exact ⟨h, tail, rfl, hj, rfl⟩

end Sys2Proof

namespace Sys2Proof.Machine

/-! ### Refusals and responses 0 -/

/-- The state after a refusal, whose value word, where there is one, is 0 (R601). -/
def State.refuse (s : State) (st : Status) (value : Bool) : State :=
  s.emit [.response st.word (if value then some 0 else none)]

/-- From `s` to `u` every response put out is 0. -/
def AnswersOk (s u : State) : Prop := ∃ es, u.out = s.out ++ es ∧ ∀ w v, PortEvent.response w v ∈ es → w = 0

theorem AnswersOk.trans {s t u : State} (h : AnswersOk s t) (g : AnswersOk t u) : AnswersOk s u := by
  obtain ⟨es, ht, hes⟩ := h
  obtain ⟨fs, hu, hfs⟩ := g
  refine ⟨es ++ fs, by rw [hu, ht, List.append_assoc], fun w v hw => ?_⟩
  rcases List.mem_append.1 hw with hw | hw
  · exact hes w v hw
  · exact hfs w v hw

/-- One response 0. -/
theorem answersOk_response {s u : State} {value : Option Word} (h : u.out = s.out ++ [.response 0 value]) : AnswersOk s u :=
  ⟨_, h, fun w v hw => by cases List.mem_singleton.1 hw; rfl⟩

/-- What a command comes to: a refusal with a code listed for it (R602), a course whose responses are 0, or, where it takes
steps, a stop (R605). -/
inductive Answers (i : Instr) (s : State) : Result → Prop
  | refused {st : Status} : st ∈ failures i → Answers i s (.next (s.refuse st i.answersValue))
  | performed {u : State} : AnswersOk s u → Answers i s (.next u)
  | stopped {f : Fault} : generates i = true → Answers i s (.fault f)

section
variable {i : Instr} {s u : State} {st : Status} {a b : Result}

theorem answers_succeed (h : u.out = s.out) : Answers i s (succeed u) :=
  .performed (answersOk_response (by rw [respond_out, h]; rfl))

theorem answers_answer (v : Word) : Answers i s (answer v s) := .performed (answersOk_response rfl)

theorem answers_fail (hst : st ∈ failures i) (hi : i.answersValue = false := by rfl) : Answers i s (fail st s) := by
  have hrefused := Answers.refused (s := s) hst
  rwa [hi] at hrefused

theorem answers_ite {c : Prop} [Decidable c] (ha : Answers i s a) (hb : Answers i s b) : Answers i s (if c then a else b) := by
  split
  · exact ha
  · exact hb

/-- A check of the command, refused with a listed code where it fails. -/
theorem answers_unless {c : Prop} [Decidable c] (h : Answers i s a) (hst : st ∈ failures i := by simp [failures])
    (hi : i.answersValue = false := by rfl) : Answers i s (if c then fail st s else a) :=
  answers_ite (answers_fail hst hi) h

end

/-! ### RUN, END and BOUNDARY_REPLY -/

/-- A step puts nothing out. -/
theorem takeStep_out (s : State) :
    (∀ t r, takeStep s = .taken t r → t.out = s.out) ∧ ∀ t cur, takeStep s = .request t cur → t.out = s.out := by
  refine ⟨fun t r h => ?_, fun t cur h => ?_⟩
  · obtain ⟨-, u, -, hu, rfl, -⟩ := takeStep_taken_inv h
    exact (advance_done_same s u hu).2.1.out
  · obtain ⟨-, hadv, -⟩ := takeStep_request_inv h
    obtain ⟨-, -, -, rfl, -⟩ := advance_request s t _ hadv
    rfl

/-- Nor does the step loop (R257). -/
theorem runSteps_out (endTime k : Nat) (s : State) (steps : List StepRecord) :
    (∀ t rs, runSteps endTime k s steps = .finished t rs → t.out = s.out) ∧
      ∀ t rs cur, runSteps endTime k s steps = .suspended t rs cur → t.out = s.out := by
  induction k generalizing s steps with
  | zero => exact ⟨by rintro _ _ ⟨⟩; rfl, by rintro _ _ _ ⟨⟩⟩
  | succ k ih =>
    obtain ⟨htaken, hrequest⟩ := takeStep_out s
    unfold runSteps
    split
    · cases hs : takeStep s with
      | taken u r =>
        obtain ⟨hfin, hsusp⟩ := ih u (steps ++ [r])
        have hu := htaken u r hs
        exact ⟨fun t rs ht => (hfin t rs ht).trans hu, fun t rs cur ht => (hsusp t rs cur ht).trans hu⟩
      | request u cur => exact ⟨by rintro _ _ ⟨⟩, by rintro _ _ _ ⟨⟩; exact hrequest u cur hs⟩
      | faulted f => exact ⟨by rintro _ _ ⟨⟩, by rintro _ _ _ ⟨⟩⟩
    · exact ⟨by rintro _ _ ⟨⟩; rfl, by rintro _ _ _ ⟨⟩⟩

/-- The steps of a command end in transactions and the response 0, or in a boundary request, or in a stop. -/
theorem continueCommand_answers (kind : SuspKind) (endTime : Nat) (steps : List StepRecord) (s : State) :
    (∃ u, continueCommand kind endTime steps s = .next u ∧ AnswersOk s u) ∨
      ∃ f, continueCommand kind endTime steps s = .fault f := by
  obtain ⟨hfin, hsusp⟩ := runSteps_out endTime (stepsDue s endTime) s steps
  rcases continueCommand_cases kind endTime steps s with ⟨t, rs, ht, e⟩ | ⟨t, rs, cur, ht, e⟩ | ⟨f, -, e⟩
  · have hemit : AnswersOk s (emitSteps rs t) :=
      ⟨_, by rw [emitSteps_out, hfin t rs ht], fun w v hw => by simp at hw⟩
    exact .inl ⟨_, e, hemit.trans (answersOk_response (value := none) (by rw [applyShift_eq]; rfl))⟩
  · exact .inl ⟨_, e, _, congrArg (· ++ _) (hsusp t rs cur ht), fun w v hw => by simp at hw⟩
  · exact .inr ⟨f, e⟩

/-- RUN and END: their checks, and then their steps (R250, R262). -/
def startChunk (kind : SuspKind) (endTime : Nat) (s : State) : Result :=
  if s.pending then fail .invalidState s
  else if s.attached = false then fail .invalidState s
  else if s.cfg.maxEndTime < endTime then fail .invalidValue s
  else continueCommand kind endTime [] s

theorem exec_run_eq_startChunk (e : Nat) (s : State) : exec (.run e) s = startChunk .run e s := rfl

theorem exec_endChunk_eq_startChunk (e : Nat) (s : State) :
    exec (.endChunk e) s = startChunk (.endChunk (wholeSamples s.cfg e)) e s := rfl

/-- They are refused, or take their steps. -/
theorem startChunk_cases (kind : SuspKind) (endTime : Nat) (s : State) :
    (∃ st, (st = .invalidState ∨ st = .invalidValue) ∧ startChunk kind endTime s = .next (s.respond st)) ∨
      s.pending = false ∧ endTime ≤ s.cfg.maxEndTime ∧ startChunk kind endTime s = continueCommand kind endTime [] s := by
  unfold startChunk
  split_ifs with hp hatt hE
  · exact .inl ⟨_, .inl rfl, rfl⟩
  · exact .inl ⟨_, .inl rfl, rfl⟩
  · exact .inl ⟨_, .inr rfl, rfl⟩
  · exact .inr ⟨by simpa using hp, Nat.le_of_not_lt hE, rfl⟩

/-- A reply is refused, or resumes the suspended command with the policy it names (R322). -/
theorem exec_boundaryReply_refused_or_resumes (v : Int) (s : State) :
    (∃ st, (st = .invalidState ∨ st = .invalidReturnValue) ∧ exec (.boundaryReply v) s = .next (s.respond st)) ∨
      ∃ q p, s.pending = true ∧ s.susp = some q ∧ v = Policy.code p ∧
        exec (.boundaryReply v) s = resume q p (leaveBoundaryWait s) := by
  show (∃ st, _ ∧ execBoundaryReply v s = _) ∨ ∃ q p, _ ∧ _ ∧ _ ∧ execBoundaryReply v s = _
  unfold execBoundaryReply
  split_ifs with hp
  · exact .inl ⟨_, .inl rfl, rfl⟩
  · cases hq : s.susp with
    | none => exact .inl ⟨_, .inl rfl, rfl⟩
    | some q =>
      cases hv : policyOfCode v with
      | none => exact .inl ⟨_, .inr rfl, rfl⟩
      | some p => exact .inr ⟨q, p, by simpa using hp, rfl, eq_code_of_policyOfCode hv, rfl⟩

/-- RUN and END (R250, R262). -/
theorem startChunk_answers {i : Instr} (hi : (∃ e, i = .run e) ∨ ∃ e, i = .endChunk e) (kind : SuspKind) (endTime : Nat)
    (s : State) : Answers i s (startChunk kind endTime s) := by
  have hlisted : ∀ st, st = .invalidState ∨ st = .invalidValue → Answers i s (fail st s) := by
    rcases hi with ⟨e, rfl⟩ | ⟨e, rfl⟩ <;> exact fun st hst => answers_fail (by simpa [failures] using hst)
  have hgen : generates i = true := (generates_iff i).2 (hi.imp_right .inl)
  rcases startChunk_cases kind endTime s with ⟨st, hst, e⟩ | ⟨-, -, e⟩ <;> rw [e]
  · exact hlisted st hst
  · rcases continueCommand_answers kind endTime [] s with ⟨u, e, hu⟩ | ⟨f, e⟩ <;> rw [e]
    · exact .performed hu
    · exact .stopped hgen

/-- BOUNDARY_REPLY: its own response comes before those of the command it resumes (R322, R323). -/
theorem exec_boundaryReply_answers (v : Int) (s : State) : Answers (.boundaryReply v) s (exec (.boundaryReply v) s) := by
  rcases exec_boundaryReply_refused_or_resumes v s with ⟨st, hst, e⟩ | ⟨q, p, -, -, -, e⟩ <;> rw [e]
  · exact answers_fail (by simpa [failures] using hst)
  · have hreply : AnswersOk s (addPeriod (applyPolicy p (leaveBoundaryWait s))) :=
      answersOk_response (value := none) (by rw [addPeriod_applyPolicy_leave]; rfl)
    unfold resume
    rcases continueCommand_answers q.kind q.endTime (q.steps ++ [⟨q.cur.time, q.cur.amps⟩])
      (addPeriod (applyPolicy p (leaveBoundaryWait s))) with ⟨u, e, hu⟩ | ⟨f, e⟩ <;> rw [e]
    · exact .performed (hreply.trans hu)
    · exact .stopped rfl

/-! ### Every command -/

/-- SET_ATTR WAVEFORM (R400). -/
theorem execSetAttrWaveform_answers (v : Int) (s : State) : Answers (.setAttrWaveform v) s (execSetAttrWaveform v s) :=
  answers_unless <| by
    cases builtinOfCode v with
    | none => exact answers_fail (by simp [failures])
    | some w => exact answers_ite (answers_succeed rfl) (answers_succeed rfl)

/-- SET_ATTR SAMPLE_REPEAT (R409). -/
theorem execSetAttrSampleRepeat_answers (v : Int) (s : State) :
    Answers (.setAttrSampleRepeat v) s (execSetAttrSampleRepeat v s) :=
  answers_unless <| by
    cases policyOfCode v with
    | none => exact answers_fail (by simp [failures])
    | some p => exact answers_succeed rfl

/-- SET_PTR WAVEFORM (R500, R504). -/
theorem execSetPtrWaveform_answers (h : Nat) (s : State) : Answers (.setPtrWaveform h) s (execSetPtrWaveform h s) :=
  answers_unless <| answers_ite (answers_succeed (dropWave_out s)) <| by
    cases dataShape s h with
    | none => exact answers_fail (by simp [failures])
    | some sh => exact answers_ite (answers_succeed rfl) (answers_fail (by simp [failures]))

/-- SET_PTR SAMPLE (R501, R504). -/
theorem execSetPtrSample_answers (h : Nat) (s : State) : Answers (.setPtrSample h) s (execSetPtrSample h s) :=
  answers_unless <| answers_ite (answers_succeed (dropSample_out s)) <| by
    cases dataShape s h with
    | none => exact answers_fail (by simp [failures])
    | some sh => exact answers_ite (answers_succeed (restart_out _)) (answers_fail (by simp [failures]))

/-- R602, command by command: the checks with their codes, and then a success; the last case is the GETs that cannot fail. -/
theorem exec_answers (i : Instr) (s : State) : Answers i s (exec i s) := by
  cases i with
  | setAttrWaveform v => exact execSetAttrWaveform_answers v s
  | setAttrDutyCycle | setAttrPeriod | setAttrVolume | setAttrSamplePeriod | setAttrSampleCallback =>
    exact answers_unless (answers_succeed rfl)
  | setAttrPhase v => exact answers_unless (answers_succeed (by split <;> simp))
  | setAttrVolumeN n v => exact answers_unless (answers_unless (answers_succeed rfl))
  | setAttrSampleOffset | setAttrSampleEnd => exact answers_unless (answers_unless (answers_succeed (restart_out _)))
  | setAttrSampleRepeat v => exact execSetAttrSampleRepeat_answers v s
  | getAttrVolumeN n => exact answers_ite (answers_answer _) (.refused (by simp [failures]))
  | setPtrWaveform hdl => exact execSetPtrWaveform_answers hdl s
  | setPtrSample hdl => exact execSetPtrSample_answers hdl s
  | run e => exact startChunk_answers (.inl ⟨e, rfl⟩) .run e s
  | endChunk e => exact startChunk_answers (.inr ⟨e, rfl⟩) (.endChunk (wholeSamples s.cfg e)) e s
  | reset => exact answers_unless (answers_succeed (clearTime_out s))
  | attach n => exact answers_unless (answers_unless (answers_unless (answers_succeed (clearTime_out _))))
  | detach => exact answers_unless (answers_unless (answers_succeed (clearTime_out _)))
  | dataNotifyReplaced | dataNotifyDisposed => exact answers_unless (answers_unless (answers_succeed (by simp)))
  | boundaryReply v => exact exec_boundaryReply_answers v s
  | reservedOp0 | reservedOpcToOpf => exact answers_fail (by simp [failures])
  | _ => exact answers_answer _

/-- A command that takes no steps always goes on (R604). -/
theorem exec_next_of_not_generates {i : Instr} (hi : generates i = false) (s : State) : ∃ t, exec i s = .next t := by
  have hanswers := exec_answers i s
  generalize exec i s = r at hanswers
  cases hanswers with
  | refused => exact ⟨_, rfl⟩
  | performed => exact ⟨_, rfl⟩
  | stopped hgen => exact absurd hgen (by simp [hi])

/-! ### Illegal encodings (R158, R610) -/

/-- The code of an illegal encoding: on SET_ATTR, SET_PTR and DATA_NOTIFY the pending rule comes before the key's check. -/
def illegalStatus (pending : Bool) : Illegal → Status
  | .reservedBits _ | .keyOnKeyless _ => .invalidState
  | .unlistedKey op => if pending && !hasValueWord op then .invalidState else .invalidAttribute
  | .readOnlyKey => if pending then .invalidState else .invalidAttribute

theorem rejectIllegal_eq (why : Illegal) (s : State) :
    rejectIllegal why s = .next (s.refuse (illegalStatus s.pending why) why.answersValue) := by
  cases why with
  | reservedBits op =>
    rw [rejectIllegal, State.refuse, Illegal.answersValue]
    cases hasValueWord op <;> rfl
  | keyOnKeyless op => rfl
  | unlistedKey op =>
    rw [rejectIllegal, illegalStatus, Illegal.answersValue]
    cases hasValueWord op <;> cases s.pending <;> rfl
  | readOnlyKey =>
    rw [rejectIllegal, illegalStatus]
    cases s.pending <;> rfl

theorem illegalStatus_cases (pending : Bool) (why : Illegal) :
    illegalStatus pending why = .invalidState ∨ illegalStatus pending why = .invalidAttribute := by
  unfold illegalStatus
  split
  · exact .inl rfl
  · exact .inl rfl
  all_goals split <;> simp

/-! ### Every step -/

/-- The two codes that no command's row lists (R603). -/
theorem failures_answerable (i : Instr) : ∀ st ∈ failures i, st ≠ .allocation ∧ st ≠ .invalidNumBits := by
  cases i <;> simp [failures]

/-- Nor is either word that of another status (R600). -/
theorem word_answerable {st : Status} (h : st ≠ .allocation ∧ st ≠ .invalidNumBits) :
    st.word ≠ Status.allocation.word ∧ st.word ≠ Status.invalidNumBits.word := by
  revert h
  cases st <;> decide

/-- What a step answers: 0 and nothing else, or one refusal, of the command whose words it takes (R601, R602, R153). -/
theorem step_answers {s t : State} (hstep : step s = .next t) :
    AnswersOk s t ∨ ∃ h tail st, s.cmd = h :: tail ∧ (st ≠ .allocation ∧ st ≠ .invalidNumBits) ∧
      t = State.refuse { s with cmd := tail.drop (wordsOfOp (headerOp h) - 1) } st (hasValueWord (headerOp h)) := by
  cases hdec : decode s.cmd with
  | incomplete =>
    rw [step_of_incomplete hdec] at hstep
    cases hstep
    exact .inl ⟨[], by simp, by simp⟩
  | command i rest =>
    obtain ⟨h, tail, hcmd, -, hwords, rfl⟩ := decode_command_inv hdec
    have hvalue := decodeWords_readsValue h (tail[0]?.getD 0) (tail[1]?.getD 0)
    rw [hwords] at hvalue
    rw [step_of_decode hdec] at hstep
    have hanswers := exec_answers i { s with cmd := tail.drop (wordsOfOp (headerOp h) - 1) }
    rw [hstep] at hanswers
    cases hanswers with
    | performed hok => exact .inl hok
    | @refused st hst =>
      refine .inr ⟨h, tail, st, hcmd, failures_answerable i st hst, ?_⟩
      rw [← hvalue]
      rfl
  | illegal why rest =>
    obtain ⟨h, tail, hcmd, hwords, rfl⟩ := decode_illegal_inv hdec
    have hvalue := decodeWords_readsValue h (tail[0]?.getD 0) (tail[1]?.getD 0)
    rw [hwords] at hvalue
    rw [step_of_illegal hdec, rejectIllegal_eq] at hstep
    cases hstep
    refine .inr ⟨h, tail, _, hcmd, ?_, by rw [← hvalue]; rfl⟩
    rcases illegalStatus_cases s.pending why with hst | hst <;> rw [hst] <;> decide

/-! ### The statements -/

/-- Settles O7: closed tables, evaluated. -/
theorem codesOfEnumerations : Obligations.CodesOfEnumerations := by
  unfold Obligations.CodesOfEnumerations
  decide

/-- Settles O53: the commands by `exec_pending`, the illegal encodings by the order of their checks. -/
theorem pendingRefusesOtherCommands : Obligations.PendingRefusesOtherCommands := by
  refine fun s hp => ⟨fun i hi => exec_pending hp hi, fun why rest hdec => ?_⟩
  have hstep : step s = .next (State.refuse { s with cmd := rest } (illegalStatus true why) why.answersValue) := by
    rw [step_of_illegal hdec, rejectIllegal_eq, ← hp]
  rw [hstep]
  refine ⟨?_, ?_, ?_⟩
  · rintro op rfl (rfl | rfl | rfl) <;> rfl
  · rintro rfl
    rfl
  · rintro op rfl (rfl | rfl) <;> rfl

/-- Settles O54: a response that is not 0 is a step's one refusal. -/
theorem failedCommandChangesNothing : Obligations.FailedCommandChangesNothing := by
  intro s t es w v hstep hout hmem hw
  rcases step_answers hstep with ⟨fs, hfs, hok⟩ | ⟨h, tail, st, hcmd, -, rfl⟩
  · rw [hout, List.append_cancel_left_eq] at hfs
    exact absurd (hok w v (hfs ▸ hmem)) hw
  · have hes : es = [.response st.word (if hasValueWord (headerOp h) then some 0 else none)] :=
      (List.append_cancel_left hout).symm
    rw [hes, List.mem_singleton] at hmem
    cases hmem
    have hvalue : hasValueWord (headerOp h) = true ↔ headerOp h = 2 ∨ headerOp h = 4 := by simp [hasValueWord]
    refine ⟨h, tail, hcmd, ?_⟩
    rw [← headerOp_eq]
    exact ⟨rfl, by simp only [hvalue]⟩

/-- Settles O55: `exec_answers` for the commands, the two codes of illegal encodings, and both for a step. -/
theorem onlyListedStatusCodes : Obligations.OnlyListedStatusCodes := by
  refine ⟨fun s t i hexec => ?_, fun s why rest hdec => ?_, fun s t hstep => ?_⟩
  · have hanswers := exec_answers i s
    rw [hexec] at hanswers
    cases hanswers with
    | @refused st hst =>
      refine ⟨_, rfl, fun w v hmem => .inr ?_⟩
      cases List.mem_singleton.1 hmem
      exact List.mem_map_of_mem hst
    | performed hok =>
      obtain ⟨es, hout, hes⟩ := hok
      exact ⟨es, hout, fun w v hmem => .inl (hes w v hmem)⟩
  · refine ⟨_, _, (step_of_illegal hdec).trans (rejectIllegal_eq why _), ?_⟩
    exact (illegalStatus_cases _ why).imp (congrArg Status.word) (congrArg Status.word)
  · rcases step_answers hstep with ⟨es, hout, hok⟩ | ⟨h, tail, st, -, hst, rfl⟩
    · refine ⟨es, hout, fun w v hmem => ?_⟩
      rw [hok w v hmem]
      exact word_answerable (st := .ok) (by decide)
    · refine ⟨_, rfl, fun w v hmem => ?_⟩
      cases List.mem_singleton.1 hmem
      exact word_answerable hst

end Sys2Proof.Machine
end

section
/-! SUPPORT. How a command can stop (60_exceptions.md R604, R605): a step that reads an object gone or changed stops it,
nothing else does, and no command breaks the host's duty (20_memory.md R106). -/

namespace Sys2Proof.Machine

/-! ### The step that reads a changed object -/

/-- The object validated is gone, or what the port answers for its handle has other counts (R605). -/
theorem readFrame_changed {s : State} {h : Nat} {held : Shape} {id : Identity}
    (hchg : dataShape s h ≠ some held ∨ id = .disposed) (i : Int) (k : Nat) :
    readFrame s h held id i k = .error (.dataShapeChanged s.out) := by
  have hnone : heldObject s h held id = none := by
    unfold heldObject
    split
    case isTrue hsame => rw [hchg.resolve_left (not_not.2 hsame)]
    case isFalse => rfl
  rw [readFrame, hnone]

/-- A fault on channel 0 is that of the channels together. -/
theorem amplitudesBelow_of_error {s : State} {f : Fault} (h : amplitude s 0 = .error f) {n : Nat} (hn : 0 < n) :
    amplitudesBelow s n = .error f := by
  induction n with
  | zero => cases hn
  | succ n ih =>
    cases n with
    | zero => simp [amplitudesBelow, h]
    | succ n =>
      rw [amplitudesBelow, ih n.succ_pos]

/-- The command stops at its next step, where one is due and its channel 0 cannot be read. -/
theorem continueCommand_stops {s : State} {f : Fault} {endTime : Nat} (hI : s.Inv) (hatt : s.attached = true)
    (htime : s.time < endTime) (hamp : amplitude s 0 = .error f) (kind : SuspKind) (steps : List StepRecord) :
    continueCommand kind endTime steps s = .fault f := by
  obtain ⟨-, ⟨hnch, -⟩, -⟩ := id hI
  have hpos : 0 < s.nch := Nat.pos_of_ne_zero fun h0 => by simpa [hatt] using hnch.2 h0
  have hfault : takeStep s = .faulted f := by rw [takeStep, amplitudesBelow_of_error hamp hpos]
  rw [continueCommand, stepsDue_pos s endTime (period_pos hI) htime, runSteps, if_pos htime, hfault]

/-- Sample playback that is not halted reads its object on every channel (R304). -/
theorem amplitude_sample_changed {s : State} (hw : s.waveform = .sample) (hh : s.halted = false)
    (hchg : dataShape s s.samplePtr ≠ some s.sampleShape ∨ s.sampleIdentity = .disposed) (c : Nat) :
    amplitude s c = .error (.dataShapeChanged s.out) := by
  rw [amplitude_sample c hw, sampleAmp, if_neg (by simp [hh])]
  exact readFrame_changed hchg _ _

/-- So does a custom step (R208). -/
theorem amplitude_custom_changed {s : State} (hw : s.waveform = .custom)
    (hchg : dataShape s s.wavePtr ≠ some s.waveShape ∨ s.waveIdentity = .disposed) (c : Nat) :
    amplitude s c = .error (.dataShapeChanged s.out) := by
  rw [amplitude_custom c hw]
  exact readFrame_changed hchg _ _

/-- After REPEAT or PALINDROME playback is not halted, so the resumed command reads the object at its next step (R309, R310). -/
theorem reply_stops {s : State} {q : Susp} {p : Policy} (hI : s.Inv) (hq : s.susp = some q) (hpol : p ≠ .none)
    (htime : s.time + s.period < q.endTime)
    (hchg : dataShape s s.samplePtr ≠ some s.sampleShape ∨ s.sampleIdentity = .disposed) :
    exec (.boundaryReply p.code) s = .fault (.dataShapeChanged (s.out ++ [.response 0 none])) := by
  obtain ⟨-, -, -, -, -, -, ⟨hsusp, hpend, -⟩, -⟩ := id hI
  have hp : s.pending = true := hsusp.2 (by rw [hq]; rfl)
  obtain ⟨hatt, hw, hh, -⟩ := hpend hp
  obtain ⟨hI', -⟩ := resumed_legal hI hp hq p
  rw [addPeriod_applyPolicy_leave] at hI'
  rw [exec_boundaryReply_resumes hp hq]
  have hA : SameAttributes s ((s.resumed p).withOut (s.out ++ [.response 0 none])) :=
    (resumed_same s p).trans' (by constructor <;> rfl)
  have hh' : (s.resumed p).halted = false := by
    cases p with
    | none => exact absurd rfl hpol
    | repeats | palindrome => exact hh
  refine continueCommand_stops hI' (hA.attached.trans hatt) htime
    (amplitude_sample_changed (hA.waveform.trans hw) hh' ?_ 0) _ _
  unfold dataShape
  rw [hA.samplePtr, hA.sampleShape, hA.sampleIdentity, hA.data]
  exact hchg

/-! ### No other stop -/

/-- The result goes on, or the host broke its duty and it stops with these outputs. -/
def StopsOnlyByDuty (s : State) (out : List PortEvent) (r : Result) : Prop :=
  (∃ t, r = .next t) ∨ ¬ s.HostDuty ∧ r = .fault (.dataShapeChanged out)

/-- A whole RUN or END, or the rest of one. -/
theorem continueCommand_stopsOnlyByDuty {kind : SuspKind} {endTime : Nat} {steps : List StepRecord} {s : State} (hI : s.Inv)
    (hp : s.pending = false) (hE : endTime ≤ s.cfg.maxEndTime) (hsteps : StepsLegal s endTime steps) :
    StopsOnlyByDuty s s.out (continueCommand kind endTime steps s) := by
  have hrun := runSteps_spec endTime (stepsDue s endTime) s hE steps hI hp hsteps rfl
  unfold continueCommand
  rcases hrun with ⟨t, rs, e, -⟩ | ⟨u, rs, cur, e, -⟩ | ⟨e, hd⟩ <;> rw [e]
  · exact .inl ⟨_, rfl⟩
  · exact .inl ⟨_, rfl⟩
  · exact .inr ⟨hd, rfl⟩

/-- RUN and END. -/
theorem startChunk_stopsOnlyByDuty {s : State} (hI : s.Inv) (kind : SuspKind) (endTime : Nat) :
    StopsOnlyByDuty s s.out (startChunk kind endTime s) := by
  rcases startChunk_cases kind endTime s with ⟨st, -, e⟩ | ⟨hp, hE, e⟩ <;> rw [e]
  · exact .inl ⟨_, rfl⟩
  · exact continueCommand_stopsOnlyByDuty hI hp hE (stepsLegal_nil _ _)

/-- BOUNDARY_REPLY, whose own response stays (R605, R608). -/
theorem resume_stopsOnlyByDuty {s : State} {q : Susp} (hI : s.Inv) (hp : s.pending = true) (hq : s.susp = some q) (p : Policy) :
    StopsOnlyByDuty s (s.out ++ [.response 0 none]) (resume q p (leaveBoundaryWait s)) := by
  obtain ⟨hI', hE, hsteps⟩ := resumed_legal hI hp hq p
  have hA : SameAttributes s (addPeriod (applyPolicy p (leaveBoundaryWait s))) := by
    rw [addPeriod_applyPolicy_leave]
    exact (resumed_same s p).trans' (by constructor <;> rfl)
  have hP := (applyPolicy_same p (leaveBoundaryWait s)).2.1
  have hrest := continueCommand_stopsOnlyByDuty (kind := q.kind) hI' hP.pending (by rwa [hA.cfg]) hsteps
  rw [addPeriod_out, hP.out] at hrest
  exact hrest.imp_right fun ⟨hd, e⟩ => ⟨fun hs => hd (HostDuty.of_same hA hs), e⟩

/-- Every command goes on, or it takes steps and the host broke its duty (R604, R605). -/
theorem exec_stopsOnlyByDuty {s : State} (hI : s.Inv) (i : Instr) : (∃ t, exec i s = .next t) ∨
    ¬ s.HostDuty ∧ ∃ out, exec i s = .fault (.dataShapeChanged out) ∧
      (((∃ e, i = .run e) ∨ ∃ e, i = .endChunk e) ∧ out = s.out ∨
        (∃ p : Policy, i = .boundaryReply p.code) ∧ out = s.out ++ [.response 0 none]) := by
  cases hi : generates i with
  | false => exact .inl (exec_next_of_not_generates hi s)
  | true =>
    rcases (generates_iff i).1 hi with ⟨e, rfl⟩ | ⟨e, rfl⟩ | ⟨v, rfl⟩
    · exact (startChunk_stopsOnlyByDuty hI .run e).imp_right fun ⟨hd, h⟩ => ⟨hd, _, h, .inl ⟨.inl ⟨e, rfl⟩, rfl⟩⟩
    · exact (startChunk_stopsOnlyByDuty hI (.endChunk (wholeSamples s.cfg e)) e).imp_right fun ⟨hd, h⟩ =>
        ⟨hd, _, h, .inl ⟨.inr ⟨e, rfl⟩, rfl⟩⟩
    · rcases exec_boundaryReply_refused_or_resumes v s with ⟨st, -, h⟩ | ⟨q, p, hp, hq, rfl, h⟩ <;> rw [h]
      · exact .inl ⟨_, rfl⟩
      · exact (resume_stopsOnlyByDuty hI hp hq p).imp_right fun ⟨hd, h⟩ => ⟨hd, _, h, .inr ⟨⟨p, rfl⟩, rfl⟩⟩

/-- Settles O12: the reading step's fault is the command's, and `exec_stopsOnlyByDuty`. -/
theorem shapeChangeStopsTheReadingStep : Obligations.ShapeChangeStopsTheReadingStep := by
  refine ⟨fun s e hI hatt hp htime hE hchg => ?_, fun s q p hI hq hpol htime hchg => reply_stops hI hq hpol htime hchg,
    fun s i hI => exec_stopsOnlyByDuty hI i⟩
  have hamp : amplitude s 0 = .error (.dataShapeChanged s.out) := by
    rcases hchg with ⟨hw, hchg⟩ | ⟨hw, hh, hchg⟩
    · exact amplitude_custom_changed hw hchg 0
    · exact amplitude_sample_changed hw hh hchg 0
  rw [exec_run hatt hp hE, exec_endChunk hatt hp hE]
  exact ⟨continueCommand_stops hI hatt htime hamp _ _, continueCommand_stops hI hatt htime hamp _ _⟩

/-! ### The host's duty (R106) -/

section
variable {s t : State}

/-- The fields that the duty speaks of. -/
def dutyFields : List StateField :=
  [.wavePtr, .waveShape, .waveIdentity, .samplePtr, .sampleShape, .sampleIdentity, .data]

/-- A change of other fields keeps the duty. -/
theorem SameOff.hostDuty {fs : List StateField} (h : SameOff fs s t) (hd : s.HostDuty)
    (hfs : ∀ f ∈ dutyFields, f ∉ fs := by simp [dutyFields, writes, stepFields, clearFields]) : t.HostDuty := by
  have hsame : ∀ f ∈ dutyFields, f.same s t := fun f hf => h f (hfs f hf)
  simp only [dutyFields, List.forall_mem_cons, StateField.same] at hsame
  obtain ⟨hwp, hws, hwi, hsp, hss, hsi, hdata, -⟩ := hsame
  unfold State.HostDuty dataShape at *
  rw [hwp, hws, hwi, hsp, hss, hsi, hdata]
  exact hd

/-- An object just validated is not disposed. -/
theorem same_ne_disposed : Identity.same ≠ .disposed := by decide

theorem restart_hostDuty (hd : s.HostDuty) : (restart s).HostDuty := (restart_sameOff s).hostDuty hd

/-- A handle that is not held asks nothing of the host. -/
theorem dropWave_hostDuty (hd : s.HostDuty) : (dropWave s).HostDuty := by
  rw [dropWave_eq]
  exact ⟨fun h0 => absurd rfl h0, hd.2⟩

theorem dropSample_hostDuty (hd : s.HostDuty) : (dropSample s).HostDuty := by
  rw [dropSample_eq]
  exact ⟨hd.1, fun h0 => absurd rfl h0⟩

/-- A handle validated anew has the counts that the port answers (R505). -/
theorem replaceWave_hostDuty (h : Nat) (hd : s.HostDuty) : (replaceWave h s).HostDuty := by
  unfold replaceWave
  split
  case isFalse => exact hd
  case isTrue heq =>
    cases hs : dataShape s h with
    | none => exact dropWave_hostDuty hd
    | some sh =>
      have hvalid : s.wavePtr ≠ 0 → dataShape s s.wavePtr = some sh ∧ Identity.same ≠ .disposed := fun _ =>
        ⟨by rw [heq, hs], same_ne_disposed⟩
      dsimp only
      split_ifs
      · exact ⟨hvalid, hd.2⟩
      · exact ⟨hvalid, hd.2⟩
      · exact dropWave_hostDuty hd

theorem replaceSample_hostDuty (h : Nat) (hd : s.HostDuty) : (replaceSample h s).HostDuty := by
  unfold replaceSample
  split
  case isFalse => exact hd
  case isTrue heq =>
    cases hs : dataShape s h with
    | none => exact dropSample_hostDuty hd
    | some sh =>
      dsimp only
      split_ifs
      · exact restart_hostDuty ⟨hd.1, fun _ => ⟨by rw [← hs, ← heq]; rfl, same_ne_disposed⟩⟩
      · exact dropSample_hostDuty hd

theorem disposeWave_hostDuty (h : Nat) (hd : s.HostDuty) : (disposeWave h s).HostDuty := by
  unfold disposeWave
  split
  · exact dropWave_hostDuty hd
  · exact hd

theorem disposeSample_hostDuty (h : Nat) (hd : s.HostDuty) : (disposeSample h s).HostDuty := by
  unfold disposeSample
  split
  · exact dropSample_hostDuty hd
  · exact hd

/-- No command breaks the duty: SET_PTR and DATA_NOTIFY hold what the port answers or nothing, the others hold what they held. -/
theorem Effect.hostDuty {i : Instr} (h : Effect s i t) (hd : s.HostDuty) : t.HostDuty := by
  have hframe := h.sameOff
  cases h with
  | unchanged => exact hd
  | dropWave => exact dropWave_hostDuty hd
  | wavePtr _ hs => exact ⟨fun _ => ⟨hs, same_ne_disposed⟩, hd.2⟩
  | dropSample => exact dropSample_hostDuty hd
  | samplePtr _ hs => exact restart_hostDuty ⟨hd.1, fun _ => ⟨hs, same_ne_disposed⟩⟩
  | replaced => exact replaceSample_hostDuty _ (replaceWave_hostDuty _ hd)
  | disposed => exact disposeSample_hostDuty _ (disposeWave_hostDuty _ hd)
  | _ => exact hframe.hostDuty hd

end

/-- Settles O11: a command goes on under the duty and does not break it, and an illegal encoding is answered. -/
theorem stepCompletesUnderHostDuty : Obligations.StepCompletesUnderHostDuty := by
  intro s hI hd
  cases hdec : decode s.cmd with
  | incomplete => exact ⟨s, step_of_incomplete hdec, hd⟩
  | command i rest =>
    rw [step_of_decode hdec]
    rcases exec_stopsOnlyByDuty (s := { s with cmd := rest }) hI i with ⟨t, ht⟩ | ⟨hbroken, -⟩
    · obtain ⟨u, es, rfl, hu⟩ := exec_performs i _ t ht
      exact ⟨_, ht, hu.hostDuty (s := { s with cmd := rest }) hd⟩
    · exact absurd hd hbroken
  | illegal why rest => exact ⟨_, (step_of_illegal hdec).trans (rejectIllegal_eq why _), hd⟩

end Sys2Proof.Machine
end

section
/-! SUPPORT. The power-on state of any configuration (70_reset_and_hazards.md R700): its registers, and that it is a legal state
(10_state.md R75) in which no handle is held. -/

namespace Sys2Proof.Machine

section
variable (p : Config.Params)

/-! ### Its registers -/

/-- Every gain is 0, and so reads a channel without a register. -/
@[simp] theorem powerOn_volumeAt (c : Nat) : (State.powerOn p).volumeAt c = 0 := by
  unfold State.volumeAt State.powerOn
  rw [List.getElem?_replicate]
  split <;> rfl

/-- Every last level is 0, and so reads a channel without a register. -/
@[simp] theorem powerOn_lastAt (c : Nat) : (State.powerOn p).lastAt c = 0 := by
  unfold State.lastAt State.powerOn
  rw [List.getElem?_replicate]
  split <;> rfl

/-- No flag of STATUS is up: detached, not halted, not pending, playing forward (R70). -/
theorem powerOn_flag (f : Flag) : (State.powerOn p).flag f = false := by cases f <;> rfl

theorem powerOn_statusWord : statusWord (State.powerOn p) = 0 := by
  simp only [statusWord, flagWord, powerOn_flag]
  rfl

/-! ### The parts of its invariant that hold for any parameters -/

/-- The port holds no object (log 6). -/
theorem powerOn_dataInv : (State.powerOn p).DataInv :=
  ⟨⟨.nil, nofun⟩, nofun, nofun, nofun⟩

/-- With no handle held, what is left are the ranges of the handles, of the sample range and of `samplePeriod`. -/
theorem powerOn_pointerInv : (State.powerOn p).PointerInv :=
  ⟨⟨Nat.two_pow_pos 32, Nat.two_pow_pos 32⟩, nofun, nofun, fun h => absurd rfl h, fun h => absurd rfl h, fun _ => ⟨rfl, rfl⟩,
    ⟨le_rfl, le_rfl⟩,
    show -Config.samplePeriodMax ≤ Config.samplePeriodReset ∧ Config.samplePeriodReset ≤ Config.samplePeriodMax by decide⟩

/-- The position is 0, and the waveform is not SAMPLE. -/
theorem powerOn_positionInv : (State.powerOn p).PositionInv :=
  ⟨⟨show -Config.samplePeriodMax ≤ 0 by decide, Int.add_pos_of_nonneg_of_pos (fixedOf_nonneg p p.maxFrames) (by decide)⟩, nofun⟩

/-- No handle is held (R106). -/
theorem powerOn_hostDuty : (State.powerOn p).HostDuty := ⟨fun h => absurd rfl h, fun h => absurd rfl h⟩

end

/-! ### What needs a well-formed configuration -/

section
variable {p : Config.Params} (hp : p.WellFormed)
include hp

theorem powerOn_waveInv : (State.powerOn p).WaveInv := by
  have hphase : 0 < phaseCount (State.powerOn p) := phaseCount_pos hp nofun
  obtain ⟨-, ⟨⟨-, hmin, hmax⟩, -, -, -, -, ⟨hduty, hdutyMax⟩, ⟨-, hseed, hseedMax⟩, -⟩, -⟩ := hp
  exact ⟨hphase, ⟨hduty, Nat.le_sub_one_of_lt hdutyMax⟩, ⟨hmin, hmax⟩,
    fun c _ => (powerOn_volumeAt p c).trans_le (Nat.zero_le _), hseed.ne', hseedMax⟩

theorem powerOn_timeInv : (State.powerOn p).TimeInv := by
  obtain ⟨-, hperiod⟩ := clearTime_values hp
  refine ⟨Nat.add_pos_right _ hperiod, fun c _ => ?_⟩
  rw [powerOn_lastAt]
  exact levelValue_zero hp

/-- R75 at power-on: only the configuration, the waveform registers and the levels need its parameters well-formed. -/
theorem powerOn_inv : (State.powerOn p).Inv :=
  ⟨⟨hp, List.length_replicate, List.length_replicate⟩, ⟨iff_of_true rfl rfl, Nat.zero_le _⟩, powerOn_waveInv hp,
    powerOn_timeInv hp, powerOn_pointerInv p, powerOn_positionInv p, pendingInv_of_idle rfl rfl, powerOn_dataInv p⟩

end

/-! ### The machine built (R8) -/

/-- The defaults of R7 meet R8 and what logs 20 and 23 add. -/
theorem default_wellFormed : Config.default.WellFormed := by decide

section
variable {p : Config.Params} (h : p.SineTableByFormula)

theorem resetWith_wellFormed (hp : p.WellFormed) : State.resetWith p h = some (State.powerOn p) := if_pos hp

theorem resetWith_illFormed (hp : ¬ p.WellFormed) : State.resetWith p h = none := if_neg hp

end

/-- Settles O8: each register is read off the power-on state; the channels and STATUS by their lemmas. -/
theorem powerOnValues : Obligations.PowerOnValues :=
  ⟨rfl, rfl, rfl, rfl, rfl, rfl, powerOn_volumeAt _, rfl, powerOn_lastAt _, rfl, rfl, rfl, rfl, rfl, rfl, rfl, rfl, rfl, rfl, rfl,
    rfl, rfl, powerOn_statusWord _⟩

/-- Settles O9: the power-on state of any well-formed configuration is legal, and the defaults are one. -/
theorem resetMeetsInvariant : Obligations.ResetMeetsInvariant := by
  refine ⟨⟨powerOn_inv default_wellFormed, powerOn_hostDuty _, rfl⟩, fun p h => ⟨fun hp => ?_, fun hfit => ?_, ?_⟩⟩
  · exact ⟨State.powerOn p, resetWith_wellFormed h hp, rfl, powerOn_inv hp, powerOn_hostDuty p⟩
  · exact resetWith_illFormed h fun hp => hfit hp.1
  · rintro rfl
    exact resetWith_wellFormed h default_wellFormed

end Sys2Proof.Machine
end
